-- ==== Sys2Proof/Word.lean ====
section
/-! DEFINITION. The widths of the core's values (spec/00_scope.md R5, R7, R8): every architectural value is an
unsigned bit vector of one of these widths. -/

namespace Sys2Proof

/-- A V register, DT, ST, a memory byte, the immediate NN (`XLEN` = 8, R5). -/
abbrev Byte := BitVec 8

/-- The index register, PC, a stack entry, an instruction word (`ILEN` = `PCLEN` = 16, R5, R80). -/
abbrev Word := BitVec 16

/-- A register index X or Y, the immediate N, a key number, SP, `wait_x` (R12, R30, R37, R81). -/
abbrev Nibble := BitVec 4

/-- The address immediate NNN (R81). -/
abbrev Addr := BitVec 12

end Sys2Proof
end

