-- ==== Sys2Proof/Syntax.lean ====
section
/-! DEFINITION. The 35 operations of spec/30_encoding.md R89, in the order of its table, with the fields of R81 each
one carries. A nibble that an operation ignores (R90) is kept in its constructor, so that an instruction and its word
determine each other (log 14). -/

namespace Sys2Proof

/-- One instruction. `x`, `y` are register indexes, `n`, `nn`, `nnn` immediates of 4, 8 and 12 bits (R81). -/
inductive Instr where
  /-- clear-screen, 00E0 (R165). -/
  | clearScreen
  /-- return, 00EE (R110). -/
  | ret
  /-- no-op, 0NNN other than 00E0 and 00EE; NNN is ignored (R111, R88). -/
  | noOp (nnn : Addr)
  /-- jump, 1NNN (R112). -/
  | jump (nnn : Addr)
  /-- call, 2NNN (R113). -/
  | call (nnn : Addr)
  /-- skip-eq-imm, 3XNN (R114). -/
  | skipEqImm (x : Nibble) (nn : Byte)
  /-- skip-neq-imm, 4XNN (R115). -/
  | skipNeqImm (x : Nibble) (nn : Byte)
  /-- skip-eq-reg, 5XY-; `n` is ignored (R116, R90). -/
  | skipEqReg (x y n : Nibble)
  /-- set-imm, 6XNN (R132). -/
  | setImm (x : Nibble) (nn : Byte)
  /-- add-imm, 7XNN (R133). -/
  | addImm (x : Nibble) (nn : Byte)
  /-- set-reg, 8XY0 (R134). -/
  | setReg (x y : Nibble)
  /-- or, 8XY1 (R135). -/
  | orReg (x y : Nibble)
  /-- and, 8XY2 (R136). -/
  | andReg (x y : Nibble)
  /-- xor, 8XY3 (R137). -/
  | xorReg (x y : Nibble)
  /-- add-reg, 8XY4 (R138). -/
  | addReg (x y : Nibble)
  /-- sub-reg, 8XY5 (R139). -/
  | subReg (x y : Nibble)
  /-- shift-right, 8X-6; `y` is ignored (R140, R90). -/
  | shiftRight (x y : Nibble)
  /-- sub-reg-rev, 8XY7 (R141). -/
  | subRegRev (x y : Nibble)
  /-- shift-left, 8X-E; `y` is ignored (R142, R90). -/
  | shiftLeft (x y : Nibble)
  /-- skip-neq-reg, 9XY-; `n` is ignored (R117, R90). -/
  | skipNeqReg (x y n : Nibble)
  /-- set-index, ANNN (R150). -/
  | setIndex (nnn : Addr)
  /-- jump-plus-v0, BNNN (R118). -/
  | jumpPlusV0 (nnn : Addr)
  /-- random-and, CXNN (R143). -/
  | randomAnd (x : Nibble) (nn : Byte)
  /-- draw-sprite, DXYN (R166). -/
  | drawSprite (x y n : Nibble)
  /-- skip-if-key-pressed, EX9E (R180). -/
  | skipIfKeyPressed (x : Nibble)
  /-- skip-if-key-not-pressed, EXA1 (R181). -/
  | skipIfKeyNotPressed (x : Nibble)
  /-- get-delay-timer, FX07 (R183). -/
  | getDelayTimer (x : Nibble)
  /-- wait-key, FX0A (R182). -/
  | waitKey (x : Nibble)
  /-- set-delay-timer, FX15 (R184). -/
  | setDelayTimer (x : Nibble)
  /-- set-sound-timer, FX18 (R185). -/
  | setSoundTimer (x : Nibble)
  /-- add-to-index, FX1E (R151). -/
  | addToIndex (x : Nibble)
  /-- font-char-address, FX29 (R152). -/
  | fontCharAddress (x : Nibble)
  /-- store-bcd, FX33 (R153). -/
  | storeBcd (x : Nibble)
  /-- reg-dump, FX55 (R154). -/
  | regDump (x : Nibble)
  /-- reg-load, FX65 (R155). -/
  | regLoad (x : Nibble)
  deriving DecidableEq, Repr

/-- The operation's name, the source's and the assembler's mnemonic (R89, R96). -/
def Instr.mnemonic : Instr → String
  | .clearScreen => "clear-screen"
  | .ret => "return"
  | .noOp _ => "no-op"
  | .jump _ => "jump"
  | .call _ => "call"
  | .skipEqImm _ _ => "skip-eq-imm"
  | .skipNeqImm _ _ => "skip-neq-imm"
  | .skipEqReg _ _ _ => "skip-eq-reg"
  | .setImm _ _ => "set-imm"
  | .addImm _ _ => "add-imm"
  | .setReg _ _ => "set-reg"
  | .orReg _ _ => "or"
  | .andReg _ _ => "and"
  | .xorReg _ _ => "xor"
  | .addReg _ _ => "add-reg"
  | .subReg _ _ => "sub-reg"
  | .shiftRight _ _ => "shift-right"
  | .subRegRev _ _ => "sub-reg-rev"
  | .shiftLeft _ _ => "shift-left"
  | .skipNeqReg _ _ _ => "skip-neq-reg"
  | .setIndex _ => "set-index"
  | .jumpPlusV0 _ => "jump-plus-v0"
  | .randomAnd _ _ => "random-and"
  | .drawSprite _ _ _ => "draw-sprite"
  | .skipIfKeyPressed _ => "skip-if-key-pressed"
  | .skipIfKeyNotPressed _ => "skip-if-key-not-pressed"
  | .getDelayTimer _ => "get-delay-timer"
  | .waitKey _ => "wait-key"
  | .setDelayTimer _ => "set-delay-timer"
  | .setSoundTimer _ => "set-sound-timer"
  | .addToIndex _ => "add-to-index"
  | .fontCharAddress _ => "font-char-address"
  | .storeBcd _ => "store-bcd"
  | .regDump _ => "reg-dump"
  | .regLoad _ => "reg-load"

end Sys2Proof
end

