-- ==== Sys2Proof/WellFormed.lean ====
section
/-! DEFINITION. The one condition the field widths do not already impose: group 0 words 0x00E0 and 0x00EE are
clear-screen and return, so no no-op carries those two addresses (spec/30_encoding.md R88, R92). -/

namespace Sys2Proof

/-- An instruction that some word decodes to (R92: "with the one exception that the no-op pattern with NNN = 0x0E0 or
0x0EE is clear-screen or return"). -/
def Instr.wellFormed : Instr → Bool
  | .noOp nnn => nnn != 0x0E0#12 && nnn != 0x0EE#12
  | .clearScreen | .ret | .jump _ | .call _ | .skipEqImm _ _ | .skipNeqImm _ _ | .skipEqReg _ _ _
  | .setImm _ _ | .addImm _ _ | .setReg _ _ | .orReg _ _ | .andReg _ _ | .xorReg _ _ | .addReg _ _
  | .subReg _ _ | .shiftRight _ _ | .subRegRev _ _ | .shiftLeft _ _ | .skipNeqReg _ _ _ | .setIndex _
  | .jumpPlusV0 _ | .randomAnd _ _ | .drawSprite _ _ _ | .skipIfKeyPressed _ | .skipIfKeyNotPressed _
  | .getDelayTimer _ | .waitKey _ | .setDelayTimer _ | .setSoundTimer _ | .addToIndex _
  | .fontCharAddress _ | .storeBcd _ | .regDump _ | .regLoad _ => true

/-- The condition as a proposition. -/
abbrev Instr.WellFormed (i : Instr) : Prop := i.wellFormed = true

end Sys2Proof
end

