-- ==== Sys2Proof/Decode.lean ====
section
/-! DEFINITION. The decoder and the encoder of spec/30_encoding.md: the fields (R81), the decoding by group nibble and
sub-opcode (R86 to R88), the opcode map as a table (R89), the rejection of unsupported words by name (R91, R93), byte
order (spec/20_memory.md R52), and the assembler's spelling (R96). The numeric codes are the spec's, which takes them
from general knowledge (log 4). -/

namespace Sys2Proof

/-- Why bytes are not an instruction. -/
inductive Reject where
  /-- The word is one of the unsupported ones (R91). -/
  | unsupported (w : Word)
  /-- Fewer than two bytes are there (R80). -/
  | truncated
  deriving DecidableEq, Repr

/-! ### Fields and byte order -/

/-- `w[15:12]` (R81). -/
def groupOf (w : Word) : Nibble := w.extractLsb' 12 4
/-- `w[11:8]` (R81). -/
def fieldX (w : Word) : Nibble := w.extractLsb' 8 4
/-- `w[7:4]` (R81). -/
def fieldY (w : Word) : Nibble := w.extractLsb' 4 4
/-- `w[3:0]` (R81). -/
def fieldN (w : Word) : Nibble := w.extractLsb' 0 4
/-- `w[7:0]` (R81). -/
def fieldNN (w : Word) : Byte := w.extractLsb' 0 8
/-- `w[11:0]` (R81). -/
def fieldNNN (w : Word) : Addr := w.extractLsb' 0 12

/-- The word of two bytes, the one at the lower address first (R52: big-endian). -/
def wordOfBytes (hi lo : Byte) : Word := hi ++ lo
/-- The byte of a word that is stored at the lower address (R52). -/
def highByte (w : Word) : Byte := w.extractLsb' 8 8
/-- The byte of a word that is stored at the higher address (R52). -/
def lowByte (w : Word) : Byte := w.extractLsb' 0 8

/-! ### The decoder -/

/-- Group 0: two whole words, every other one is no-op (R88). -/
def decodeGroup0 (w : Word) : Instr :=
  if w = 0x00E0#16 then .clearScreen
  else if w = 0x00EE#16 then .ret
  else .noOp (fieldNNN w)

/-- Group 8, told apart by N (R87, R89). -/
def decodeGroup8 (w : Word) : Except Reject Instr :=
  match fieldN w with
  | 0x0#4 => .ok (.setReg (fieldX w) (fieldY w))
  | 0x1#4 => .ok (.orReg (fieldX w) (fieldY w))
  | 0x2#4 => .ok (.andReg (fieldX w) (fieldY w))
  | 0x3#4 => .ok (.xorReg (fieldX w) (fieldY w))
  | 0x4#4 => .ok (.addReg (fieldX w) (fieldY w))
  | 0x5#4 => .ok (.subReg (fieldX w) (fieldY w))
  | 0x6#4 => .ok (.shiftRight (fieldX w) (fieldY w))
  | 0x7#4 => .ok (.subRegRev (fieldX w) (fieldY w))
  | 0xE#4 => .ok (.shiftLeft (fieldX w) (fieldY w))
  | _ => .error (.unsupported w)

/-- Group E, told apart by NN (R87, R89). -/
def decodeGroupE (w : Word) : Except Reject Instr :=
  match fieldNN w with
  | 0x9E#8 => .ok (.skipIfKeyPressed (fieldX w))
  | 0xA1#8 => .ok (.skipIfKeyNotPressed (fieldX w))
  | _ => .error (.unsupported w)

/-- Group F, told apart by NN (R87, R89). -/
def decodeGroupF (w : Word) : Except Reject Instr :=
  match fieldNN w with
  | 0x07#8 => .ok (.getDelayTimer (fieldX w))
  | 0x0A#8 => .ok (.waitKey (fieldX w))
  | 0x15#8 => .ok (.setDelayTimer (fieldX w))
  | 0x18#8 => .ok (.setSoundTimer (fieldX w))
  | 0x1E#8 => .ok (.addToIndex (fieldX w))
  | 0x29#8 => .ok (.fontCharAddress (fieldX w))
  | 0x33#8 => .ok (.storeBcd (fieldX w))
  | 0x55#8 => .ok (.regDump (fieldX w))
  | 0x65#8 => .ok (.regLoad (fieldX w))
  | _ => .error (.unsupported w)

/-- The decoder: a pure function of the word (R86, R95), total, refusing exactly the words of R91. The last arm is
never taken, since a group is a nibble. -/
def decode (w : Word) : Except Reject Instr :=
  match groupOf w with
  | 0x0#4 => .ok (decodeGroup0 w)
  | 0x1#4 => .ok (.jump (fieldNNN w))
  | 0x2#4 => .ok (.call (fieldNNN w))
  | 0x3#4 => .ok (.skipEqImm (fieldX w) (fieldNN w))
  | 0x4#4 => .ok (.skipNeqImm (fieldX w) (fieldNN w))
  | 0x5#4 => .ok (.skipEqReg (fieldX w) (fieldY w) (fieldN w))
  | 0x6#4 => .ok (.setImm (fieldX w) (fieldNN w))
  | 0x7#4 => .ok (.addImm (fieldX w) (fieldNN w))
  | 0x8#4 => decodeGroup8 w
  | 0x9#4 => .ok (.skipNeqReg (fieldX w) (fieldY w) (fieldN w))
  | 0xA#4 => .ok (.setIndex (fieldNNN w))
  | 0xB#4 => .ok (.jumpPlusV0 (fieldNNN w))
  | 0xC#4 => .ok (.randomAnd (fieldX w) (fieldNN w))
  | 0xD#4 => .ok (.drawSprite (fieldX w) (fieldY w) (fieldN w))
  | 0xE#4 => decodeGroupE w
  | 0xF#4 => decodeGroupF w
  | _ => .error (.unsupported w)

/-- The decoder over bytes: the first two are the word, high byte first, and the rest is left over (R52, R80). -/
def decodeBytes : List Byte → Except Reject (Instr × List Byte)
  | hi :: lo :: rest =>
    match decode (wordOfBytes hi lo) with
    | .ok i => .ok (i, rest)
    | .error r => .error r
  | _ => .error .truncated

/-! ### The encoder -/

/-- Format NNN (R82); `++` puts its left operand in the high bits (R8). -/
def packNNN (g : Nibble) (nnn : Addr) : Word := g ++ nnn
/-- Format XNN, and format X with NN as a sub-opcode (R83). -/
def packXNN (g x : Nibble) (nn : Byte) : Word := g ++ x ++ nn
/-- Format XYN, with N as an immediate, a sub-opcode or ignored (R84). -/
def packXYN (g x y n : Nibble) : Word := g ++ x ++ (y ++ n)

/-- The word of an instruction, from the patterns of R89. -/
def encode : Instr → Word
  | .clearScreen => 0x00E0#16
  | .ret => 0x00EE#16
  | .noOp nnn => packNNN 0x0#4 nnn
  | .jump nnn => packNNN 0x1#4 nnn
  | .call nnn => packNNN 0x2#4 nnn
  | .skipEqImm x nn => packXNN 0x3#4 x nn
  | .skipNeqImm x nn => packXNN 0x4#4 x nn
  | .skipEqReg x y n => packXYN 0x5#4 x y n
  | .setImm x nn => packXNN 0x6#4 x nn
  | .addImm x nn => packXNN 0x7#4 x nn
  | .setReg x y => packXYN 0x8#4 x y 0x0#4
  | .orReg x y => packXYN 0x8#4 x y 0x1#4
  | .andReg x y => packXYN 0x8#4 x y 0x2#4
  | .xorReg x y => packXYN 0x8#4 x y 0x3#4
  | .addReg x y => packXYN 0x8#4 x y 0x4#4
  | .subReg x y => packXYN 0x8#4 x y 0x5#4
  | .shiftRight x y => packXYN 0x8#4 x y 0x6#4
  | .subRegRev x y => packXYN 0x8#4 x y 0x7#4
  | .shiftLeft x y => packXYN 0x8#4 x y 0xE#4
  | .skipNeqReg x y n => packXYN 0x9#4 x y n
  | .setIndex nnn => packNNN 0xA#4 nnn
  | .jumpPlusV0 nnn => packNNN 0xB#4 nnn
  | .randomAnd x nn => packXNN 0xC#4 x nn
  | .drawSprite x y n => packXYN 0xD#4 x y n
  | .skipIfKeyPressed x => packXNN 0xE#4 x 0x9E#8
  | .skipIfKeyNotPressed x => packXNN 0xE#4 x 0xA1#8
  | .getDelayTimer x => packXNN 0xF#4 x 0x07#8
  | .waitKey x => packXNN 0xF#4 x 0x0A#8
  | .setDelayTimer x => packXNN 0xF#4 x 0x15#8
  | .setSoundTimer x => packXNN 0xF#4 x 0x18#8
  | .addToIndex x => packXNN 0xF#4 x 0x1E#8
  | .fontCharAddress x => packXNN 0xF#4 x 0x29#8
  | .storeBcd x => packXNN 0xF#4 x 0x33#8
  | .regDump x => packXNN 0xF#4 x 0x55#8
  | .regLoad x => packXNN 0xF#4 x 0x65#8

/-- The two bytes of an instruction in memory order (R52). -/
def encodeBytes (i : Instr) : List Byte := [highByte (encode i), lowByte (encode i)]

/-! ### The opcode map as a table -/

/-- A row of the opcode map: a word `w` selects it when `w & mask = bits` (R89). -/
structure OpRow where
  /-- The operation's name. -/
  name : String
  /-- The column `match`. -/
  bits : Word
  /-- The column `mask`. -/
  mask : Word
  deriving DecidableEq, Repr

/-- Groups 0 to 7 of the opcode map, first match wins (R88, R89). -/
def opTableLow : List OpRow :=
  [⟨"clear-screen", 0x00E0, 0xFFFF⟩, ⟨"return", 0x00EE, 0xFFFF⟩, ⟨"no-op", 0x0000, 0xF000⟩,
   ⟨"jump", 0x1000, 0xF000⟩, ⟨"call", 0x2000, 0xF000⟩, ⟨"skip-eq-imm", 0x3000, 0xF000⟩,
   ⟨"skip-neq-imm", 0x4000, 0xF000⟩, ⟨"skip-eq-reg", 0x5000, 0xF000⟩, ⟨"set-imm", 0x6000, 0xF000⟩,
   ⟨"add-imm", 0x7000, 0xF000⟩]

/-- Group 8 of the opcode map (R89). -/
def opTableAlu : List OpRow :=
  [⟨"set-reg", 0x8000, 0xF00F⟩, ⟨"or", 0x8001, 0xF00F⟩, ⟨"and", 0x8002, 0xF00F⟩,
   ⟨"xor", 0x8003, 0xF00F⟩, ⟨"add-reg", 0x8004, 0xF00F⟩, ⟨"sub-reg", 0x8005, 0xF00F⟩,
   ⟨"shift-right", 0x8006, 0xF00F⟩, ⟨"sub-reg-rev", 0x8007, 0xF00F⟩, ⟨"shift-left", 0x800E, 0xF00F⟩]

/-- Groups 9 to E of the opcode map (R89). -/
def opTableHigh : List OpRow :=
  [⟨"skip-neq-reg", 0x9000, 0xF000⟩, ⟨"set-index", 0xA000, 0xF000⟩, ⟨"jump-plus-v0", 0xB000, 0xF000⟩,
   ⟨"random-and", 0xC000, 0xF000⟩, ⟨"draw-sprite", 0xD000, 0xF000⟩,
   ⟨"skip-if-key-pressed", 0xE09E, 0xF0FF⟩, ⟨"skip-if-key-not-pressed", 0xE0A1, 0xF0FF⟩]

/-- Group F of the opcode map (R89). -/
def opTableMisc : List OpRow :=
  [⟨"get-delay-timer", 0xF007, 0xF0FF⟩, ⟨"wait-key", 0xF00A, 0xF0FF⟩, ⟨"set-delay-timer", 0xF015, 0xF0FF⟩,
   ⟨"set-sound-timer", 0xF018, 0xF0FF⟩, ⟨"add-to-index", 0xF01E, 0xF0FF⟩,
   ⟨"font-char-address", 0xF029, 0xF0FF⟩, ⟨"store-bcd", 0xF033, 0xF0FF⟩, ⟨"reg-dump", 0xF055, 0xF0FF⟩,
   ⟨"reg-load", 0xF065, 0xF0FF⟩]

/-- The opcode map of R89, 35 rows in its order. -/
def opTable : List OpRow := opTableLow ++ opTableAlu ++ opTableHigh ++ opTableMisc

/-- Whether a word selects a row (R89). -/
def OpRow.selects (r : OpRow) (w : Word) : Bool := w &&& r.mask == r.bits

/-- The name of the first row a word selects (R89). -/
def lookupName (w : Word) : Option String := (opTable.find? fun r => r.selects w).map OpRow.name

/-! ### Assembler spelling -/

/-- The spelling with every ignored bit 0, which the assembler writes (R90, R96). -/
def Instr.canonical : Instr → Instr
  | .noOp _ => .noOp 0
  | .skipEqReg x y _ => .skipEqReg x y 0
  | .skipNeqReg x y _ => .skipNeqReg x y 0
  | .shiftRight x _ => .shiftRight x 0
  | .shiftLeft x _ => .shiftLeft x 0
  | i => i

/-- One hexadecimal digit, capital. -/
def hexDigit (d : Nibble) : String :=
  (["0", "1", "2", "3", "4", "5", "6", "7", "8", "9", "A", "B", "C", "D", "E", "F"][d.toNat]?).getD "0"

/-- `V0` .. `VF` (R20, R96). -/
def asmReg (x : Nibble) : String := "V" ++ hexDigit x
/-- N as the assembler writes it (R96). -/
def asmN (n : Nibble) : String := "0x" ++ hexDigit n
/-- NN as the assembler writes it (R96). -/
def asmNN (nn : Byte) : String := "0x" ++ hexDigit (nn.extractLsb' 4 4) ++ hexDigit (nn.extractLsb' 0 4)
/-- NNN as the assembler writes it (R96). -/
def asmNNN (nnn : Addr) : String :=
  "0x" ++ hexDigit (nnn.extractLsb' 8 4) ++ hexDigit (nnn.extractLsb' 4 4) ++ hexDigit (nnn.extractLsb' 0 4)

/-- The operands of an instruction, in the order of the syntax table of R96. -/
def Instr.asmOperands : Instr → List String
  | .clearScreen | .ret => []
  | .noOp nnn | .jump nnn | .call nnn | .setIndex nnn | .jumpPlusV0 nnn => [asmNNN nnn]
  | .skipEqImm x nn | .skipNeqImm x nn | .setImm x nn | .addImm x nn | .randomAnd x nn => [asmReg x, asmNN nn]
  | .skipEqReg x y _ | .skipNeqReg x y _ => [asmReg x, asmReg y]
  | .setReg x y | .orReg x y | .andReg x y | .xorReg x y | .addReg x y | .subReg x y | .subRegRev x y =>
    [asmReg x, asmReg y]
  | .drawSprite x y n => [asmReg x, asmReg y, asmN n]
  | .shiftRight x _ | .shiftLeft x _ => [asmReg x]
  | .skipIfKeyPressed x | .skipIfKeyNotPressed x | .getDelayTimer x | .waitKey x | .setDelayTimer x
  | .setSoundTimer x | .addToIndex x | .fontCharAddress x | .storeBcd x | .regDump x | .regLoad x => [asmReg x]

/-- One line of assembly (R96). -/
def Instr.toAsm (i : Instr) : String :=
  match i.asmOperands with
  | [] => i.mnemonic
  | os => i.mnemonic ++ " " ++ String.intercalate ", " os

/-! ### The table's word numbering -/

/-- The instruction the decoder reads from a word whose bits are numbered as spec/opcode_table.json numbers them: the
16-bit word is laid out as memory holds it, high byte at the lower address (R52), and decoded from those bytes. -/
def decodeTableWord (nbits w : Nat) : Option Instr :=
  let word : Word := BitVec.ofNat 16 (w % 2 ^ nbits)
  match decodeBytes [highByte word, lowByte word] with
  | .ok (i, _) => some i
  | .error _ => none

end Sys2Proof
end

