-- ==== Sys2Proof/Config.lean ====
section
/-! DEFINITION. The parameters the source leaves open, as fields a claim can name or quantify over
(spec/00_scope.md R6), and the one free value of the hardware, the random byte (spec/41_alu.md R143). The decided
values of the parameters stand in Machine/Params.lean. -/

namespace Sys2Proof

/-- `DRAW_VF_MODE` (R6, R168): what draw-sprite reports in VF. -/
inductive DrawVfMode where
  /-- VF receives the transition of every toggled bit in turn, so the last one stays. -/
  | last
  /-- VF is 1 exactly when some toggled bit was erased. -/
  | or
  deriving DecidableEq, Repr

/-- `DRAW_OOB` (R6, R167): where a sprite bit outside the grid lands. -/
inductive DrawOob where
  /-- Each coordinate is taken modulo its axis. -/
  | wrap
  /-- The bit is skipped. -/
  | drop
  deriving DecidableEq, Repr

/-- The parameters of R6 that some rule depends on. The rates `CPU_HZ` and `TIMER_HZ` are not here: no rule
depends on them (R6, R276). -/
structure Config where
  /-- `COLS`, a positive number of display columns. -/
  cols : Nat
  /-- `ROWS`, a positive number of display rows. -/
  rows : Nat
  /-- `FONT`: sixteen glyphs of five bytes each (spec/20_memory.md R60). -/
  font : Vector (Vector Byte 5) 16
  /-- `DRAW_VF_MODE`. -/
  drawVf : DrawVfMode
  /-- `DRAW_OOB`. -/
  drawOob : DrawOob
  deriving DecidableEq, Repr

/-- `COLS` and `ROWS` are positive integers (R6). -/
abbrev Config.wf (c : Config) : Prop := 0 < c.cols ∧ 0 < c.rows

/-- FREE VALUE. The random byte of the n-th `cycle` for which no event supplied one: no law, no seed, nothing can be
proved of it (R143, decision D18; log 7). -/
opaque Config.freeRnd : Nat → Byte

end Sys2Proof
end

