-- ==== Sys2Proof/Machine/Params.lean ====
section
/-! DEFINITION. The constants the source fixes (spec/00_scope.md R5) and the values the spec decides for the parameters
the source leaves open (R6; spec/20_memory.md R60; logs 2, 3, 5). -/

namespace Sys2Proof.Machine

/-- `MEM_SIZE` (R5, R50). -/
def memSize : Nat := 4096
/-- `PROGRAM_ORIGIN`: load address and reset PC (R5, R262). -/
def programOrigin : Nat := 0x200
/-- `ROM_MAX` = MEM_SIZE − PROGRAM_ORIGIN (R5, R216). -/
def romMax : Nat := 3584
/-- Bytes of the font region, 16 glyphs of 5 bytes at address 0 (R5, R58). -/
def fontBytes : Nat := 80
/-- Numeric code of the answer InvalidROM (spec/60_exceptions.md R230, decision D21). -/
def invalidRomCode : Nat := 3

/-- The font table of R60. Glyph 0 is the source's; the others are the conventional ones, which the spec takes from
general knowledge (decision D4; log 3). -/
def decidedFont : Vector (Vector Byte 5) 16 :=
  #v[#v[0xF0, 0x90, 0x90, 0x90, 0xF0], #v[0x20, 0x60, 0x20, 0x20, 0x70],
     #v[0xF0, 0x10, 0xF0, 0x80, 0xF0], #v[0xF0, 0x10, 0xF0, 0x10, 0xF0],
     #v[0x90, 0x90, 0xF0, 0x10, 0x10], #v[0xF0, 0x80, 0xF0, 0x10, 0xF0],
     #v[0xF0, 0x80, 0xF0, 0x90, 0xF0], #v[0xF0, 0x10, 0x20, 0x40, 0x40],
     #v[0xF0, 0x90, 0xF0, 0x90, 0xF0], #v[0xF0, 0x90, 0xF0, 0x10, 0xF0],
     #v[0xF0, 0x90, 0xF0, 0x90, 0x90], #v[0xE0, 0x90, 0xE0, 0x90, 0xE0],
     #v[0xF0, 0x80, 0x80, 0x80, 0xF0], #v[0xE0, 0x90, 0x90, 0x90, 0xE0],
     #v[0xF0, 0x80, 0xF0, 0x80, 0xF0], #v[0xF0, 0x80, 0xF0, 0x80, 0x80]]

/-- The decided value of every parameter of R6: 64 × 32, the font above, `last`, `wrap` (decisions D3, D4, D8, D9). -/
def decidedConfig : Config :=
  { cols := 64, rows := 32, font := decidedFont, drawVf := .last, drawOob := .wrap }

end Sys2Proof.Machine
end

