-- ==== Sys2Proof/Machine/Memory.lean ====
section
/-! DEFINITION. The 4096-byte memory (spec/20_memory.md R50 to R60) as the list of the cells that differ from the reset
contents, addresses rising (log 12), with reading and writing of single bytes (R55) and of runs of bytes in ascending
address order (R53). -/

namespace Sys2Proof.Machine

/-- The cells of memory that do not hold their reset contents. -/
abbrev Memory := List Host.Cell

/-- What memory holds at an address after reset, which is what an unlisted address reads as: `FONT[a]` for `a` in
0..79, else 0 (spec/10_state.md R34, R41). Glyph `g` stands at `5 * g` (R59). -/
def initialByte (c : Config) (a : Nat) : Byte :=
  if h : a < 80 then (c.font[a / 5]'(by omega))[a % 5]'(by omega) else 0

namespace Memory

/-- `MemRead(a, 1)` for an address in memory (R10). The range check of R51 comes before every call. -/
def read (c : Config) : Memory → Nat → Byte
  | [], a => initialByte c a
  | cell :: rest, a => if cell.1 = a then cell.2 else read c rest a

/-- `MemWrite(a, 1, b)` for an address in memory (R10), keeping the canonical form. -/
def write (c : Config) : Memory → Nat → Byte → Memory
  | [], a, b => if b = initialByte c a then [] else [(a, b)]
  | cell :: rest, a, b =>
    if a < cell.1 then (if b = initialByte c a then cell :: rest else (a, b) :: cell :: rest)
    else if a = cell.1 then (if b = initialByte c a then rest else (a, b) :: rest)
    else cell :: write c rest a b

/-- Bytes written at `a`, `a + 1`, … in that order (R53). -/
def writeBytes (c : Config) (m : Memory) (a : Nat) : List Byte → Memory
  | [] => m
  | b :: bs => writeBytes c (write c m a b) (a + 1) bs

/-- The `n` bytes at `a`, `a + 1`, … (R53). -/
def readBytes (c : Config) (m : Memory) (a n : Nat) : List Byte := (List.range n).map fun k => read c m (a + k)

/-- The canonical form: addresses strictly rising, inside memory, no cell equal to its reset contents. -/
abbrev wf (c : Config) (m : Memory) : Prop :=
  m.Pairwise (fun p q => p.1 < q.1) ∧ ∀ p ∈ m, p.1 < memSize ∧ p.2 ≠ initialByte c p.1

end Memory

/-- Memory after `load` (spec/50_machine_cycle.md R216): the reset contents with the bytes written from 0x200 upward. -/
def loadedMemory (c : Config) (bytes : List Byte) : Memory := Memory.writeBytes c [] programOrigin bytes

end Sys2Proof.Machine
end

