-- ==== Sys2Proof/Machine/Raster.lean ====
section
/-! DEFINITION. The display buffer (spec/10_state.md R35; spec/00_scope.md R11; spec/20_memory.md R65) as the list of
its lit pixels in raster order (log 13), the toggling of one pixel, and the placing of a sprite's bits
(spec/43_display.md R166, R167). -/

namespace Sys2Proof.Machine

/-- A grid position: column from the left, row from the top (R65). -/
structure Pixel where
  /-- Column. -/
  col : Nat
  /-- Row. -/
  row : Nat
  deriving DecidableEq, Repr

/-- Raster order: row by row from the top, each row from the left. -/
abbrev Pixel.before (p q : Pixel) : Prop := p.row < q.row ∨ (p.row = q.row ∧ p.col < q.col)

/-- The lit pixels of the buffer, in raster order. -/
abbrev Raster := List Pixel

namespace Raster

/-- `D[p] = 1` (R11). -/
def lit (d : Raster) (p : Pixel) : Bool := d.contains p

/-- `Toggle(p)`: flips one pixel (R11). -/
def toggle : Raster → Pixel → Raster
  | [], p => [p]
  | q :: rest, p =>
    if p = q then rest
    else if p.before q then p :: q :: rest
    else q :: toggle rest p

/-- The canonical form: raster order, every pixel on the grid. -/
abbrev wf (c : Config) (d : Raster) : Prop :=
  d.Pairwise Pixel.before ∧ ∀ p ∈ d, p.col < c.cols ∧ p.row < c.rows

end Raster

/-- `Place(px, py)`: where a sprite bit lands, by `DRAW_OOB` (R167). -/
def place (c : Config) (px py : Nat) : Option Pixel :=
  match c.drawOob with
  | .wrap => some ⟨px % c.cols, py % c.rows⟩
  | .drop => if px < c.cols ∧ py < c.rows then some ⟨px, py⟩ else none

/-- The pixels one sprite byte toggles, left to right, most significant bit first (R166, R65). -/
def spriteRow (c : Config) (b : Byte) (vx py : Nat) : List Pixel :=
  (List.range 8).filterMap fun col => if b.getMsbD col then place c (vx + col) py else none

/-- The pixels a sprite toggles, in the order of R166: top to bottom, and left to right in a row. -/
def spritePixels (c : Config) (vx : Nat) : Nat → List Byte → List Pixel
  | _, [] => []
  | py, b :: bs => spriteRow c b vx py ++ spritePixels c vx (py + 1) bs

end Sys2Proof.Machine
end

