-- ==== Sys2Proof/Machine/State.lean ====
section
/-! DEFINITION. The core's state (spec/10_state.md R20 to R41), its recorded exceptions (spec/60_exceptions.md R230), its
input events (spec/50_machine_cycle.md R208) and its outputs (spec/00_scope.md R14), all plain data, and the state right
after reset (R41, R260, R261). -/

namespace Sys2Proof.Machine

/-- `kind` of a MemoryFault (spec/60_exceptions.md R230). -/
inductive FaultKind where
  /-- Instruction fetch outside memory (R232). -/
  | fetch
  /-- draw-sprite or reg-load outside memory (R233). -/
  | dataRead
  /-- store-bcd or reg-dump outside memory (R233). -/
  | dataWrite
  /-- call with SP = 15 (R234). -/
  | stackOverflow
  /-- return with SP = 0 (R234). -/
  | stackUnderflow
  /-- key skip with a key number above 15 (R235). -/
  | keyIndex
  deriving DecidableEq, Repr

/-- The exceptions a step can raise and the latch can hold (R13, R38, R230). -/
inductive Exception where
  /-- The fetched word decodes to nothing (R231). -/
  | unsupportedInstruction (word : Word)
  /-- An access outside memory, the stack or the key vector (R232 to R235). -/
  | memoryFault (kind : FaultKind) (value : Nat)
  deriving DecidableEq, Repr

/-- The input events (R208). A key number is 4 bits (R12). -/
inductive Event where
  /-- One fetch-decode-execute step, with its random byte (R200). -/
  | cycle (rnd : Byte)
  /-- One timer step (R205). -/
  | tick
  /-- A key goes down (R214). -/
  | keyPress (k : Nibble)
  /-- A key goes up (R215). -/
  | keyRelease (k : Nibble)
  /-- The host resets the core (R260). -/
  | reset
  /-- The host writes a program (R216). -/
  | load (bytes : List Byte)
  deriving DecidableEq, Repr

/-- What the core sends out: the notifications of R14, and the answer of a refused `load` (R216, R236). -/
inductive Output where
  /-- The sound timer runs (R206). -/
  | soundOn
  /-- The sound timer does not run (R206). -/
  | soundOff
  /-- The display buffer may have changed (R171, R264). -/
  | render
  /-- A step raised an exception (R213). -/
  | fault (e : Exception)
  /-- `load` answers InvalidROM: the byte string is too long (R216). -/
  | invalidRom (length : Nat)
  deriving DecidableEq, Repr

/-- The model's own record of the core's inputs and outputs (R210); no instruction reads anything of it but `rnd`, and
none of it is state of the hardware (R40; logs 6, 7, 8). -/
structure Io where
  /-- Events that have arrived and wait, oldest first (R209 (c)). -/
  events : List Event
  /-- The input `rnd` of the present cycle (R200). -/
  rnd : Byte
  /-- How many free random bytes have been taken. -/
  draws : Nat
  /-- Everything sent out so far, oldest first (R14). -/
  out : List Output
  deriving DecidableEq, Repr

/-- The machine. -/
structure State where
  /-- V0..VF, VF doubling as the flag (R20, R22). -/
  v : Vector Byte 16
  /-- I, the index register (R29). -/
  i : Word
  /-- PC (R23). -/
  pc : Word
  /-- SP, the number of return addresses on the stack (R30). -/
  sp : Nibble
  /-- The sixteen return-address slots (R31). -/
  stack : Vector Word 16
  /-- DT, the delay timer (R32). -/
  dt : Byte
  /-- ST, the sound timer (R33). -/
  st : Byte
  /-- A key wait is pending (R27). -/
  halt : Bool
  /-- The register the pending wait writes (R37). -/
  waitX : Nibble
  /-- The fault latch (R38). -/
  fault : Option Exception
  /-- Memory (R34). -/
  mem : Memory
  /-- The display buffer (R35). -/
  display : Raster
  /-- The key vector, true = pressed (R36). -/
  keys : Vector Bool 16
  /-- The parameters (R6); no step changes them (log 1). -/
  cfg : Config
  /-- The model's record of inputs and outputs. -/
  io : Io
  deriving DecidableEq, Repr

/-- Why a step of the model could stop the model itself. There is no such reason: every exception of this hardware is a
next state with the latch set (R241; log 9), so this type has no constructor. -/
inductive Fault where
  deriving DecidableEq, Repr

/-- Why the model could refuse an instruction. -/
inductive Refusal where
  /-- Raised by an arm of `exec` whose instruction has no meaning yet (safe: nothing can be proved of what it does). No
  arm of this model raises it. -/
  | notModelled (mnemonic : String)
  deriving DecidableEq, Repr

/-- What a step answers. -/
abbrev Result := Host.Outcome State Fault Refusal

/-- The state after power-on with given parameters (spec/10_state.md R41; spec/70_reset_and_hazards.md R261), the
model's own record empty (logs 6, 7, 8). -/
def State.powerOn (c : Config) : State :=
  { v := Vector.replicate 16 0, i := 0, pc := BitVec.ofNat 16 programOrigin, sp := 0,
    stack := Vector.replicate 16 0, dt := 0, st := 0, halt := false, waitX := 0, fault := none,
    mem := [], display := [], keys := Vector.replicate 16 false, cfg := c,
    io := { events := [], rnd := 0, draws := 0, out := [] } }

/-- The machine right after reset, with the decided parameters (R6, R41, R261). -/
def State.reset : State := State.powerOn decidedConfig

end Sys2Proof.Machine
end

