-- ==== Sys2Proof/Machine/Ops.lean ====
section
/-! DEFINITION. The named operations every meaning is written with: reads and writes of each piece of state
(spec/00_scope.md R9 to R12), notifications (R14), the end of a step (spec/50_machine_cycle.md R203), taking an
exception (R13; spec/60_exceptions.md R241), the range check (spec/20_memory.md R51), and reset, the only way back from
an exception (R243; spec/70_reset_and_hazards.md R260). -/

namespace Sys2Proof.Machine

namespace State

/-! ### One read and one write for each piece of state -/

/-- `V[r]` (R9). -/
def getV (s : State) (r : Nibble) : Byte := s.v[r.toNat]'r.isLt
/-- `V[r] <- b` (R9). -/
def setV (s : State) (r : Nibble) (b : Byte) : State := { s with v := s.v.set r.toNat b r.isLt }
/-- All of V at once. -/
def setRegs (s : State) (v : Vector Byte 16) : State := { s with v := v }
/-- `I <- w` (R9). -/
def setI (s : State) (w : Word) : State := { s with i := w }
/-- `PC <- w` (R9). -/
def setPc (s : State) (w : Word) : State := { s with pc := w }
/-- `SP <- k` (R9). -/
def setSp (s : State) (k : Nibble) : State := { s with sp := k }
/-- `stack[k]` (R9). -/
def getStack (s : State) (k : Nibble) : Word := s.stack[k.toNat]'k.isLt
/-- `stack[k] <- w` (R9). -/
def setStack (s : State) (k : Nibble) (w : Word) : State := { s with stack := s.stack.set k.toNat w k.isLt }
/-- `DT <- b` (R9). -/
def setDt (s : State) (b : Byte) : State := { s with dt := b }
/-- `ST <- b` (R9). -/
def setSt (s : State) (b : Byte) : State := { s with st := b }
/-- `halt <- h` (R27). -/
def setHalt (s : State) (h : Bool) : State := { s with halt := h }
/-- `wait_x <- x` (R37). -/
def setWaitX (s : State) (x : Nibble) : State := { s with waitX := x }
/-- `fault <- e` (R38). -/
def setFault (s : State) (e : Exception) : State := { s with fault := some e }
/-- The byte at an address in memory (R10). -/
def byteAt (s : State) (a : Nat) : Byte := s.mem.read s.cfg a
/-- The `n` bytes from an address on (R53). -/
def bytesAt (s : State) (a n : Nat) : List Byte := s.mem.readBytes s.cfg a n
/-- Memory replaced. -/
def setMem (s : State) (m : Memory) : State := { s with mem := m }
/-- Bytes written in ascending order from an address on (R53). -/
def writeBytes (s : State) (a : Nat) (bs : List Byte) : State := s.setMem (s.mem.writeBytes s.cfg a bs)
/-- `D[c, r]` (R11), which the render collaborator may read too (R211). -/
def pixel (s : State) (p : Pixel) : Bool := s.display.lit p
/-- The display buffer replaced. -/
def setDisplay (s : State) (d : Raster) : State := { s with display := d }
/-- `ClearDisplay()` (R11). -/
def clearDisplay (s : State) : State := s.setDisplay []
/-- `IsPressed(k)` (R12). -/
def isPressed (s : State) (k : Nibble) : Bool := s.keys[k.toNat]'k.isLt
/-- `key[k] <- down` (R36). -/
def setKey (s : State) (k : Nibble) (down : Bool) : State := { s with keys := s.keys.set k.toNat down k.isLt }
/-- The model's record of inputs and outputs replaced. -/
def setIo (s : State) (io : Io) : State := { s with io := io }
/-- `emit n` (R14). -/
def emit (s : State) (n : Output) : State := s.setIo { s.io with out := s.io.out ++ [n] }
/-- The input `rnd` of the cycle that begins (R200). -/
def present (s : State) (rnd : Byte) : State := s.setIo { s.io with rnd := rnd }

/-- `PC <- (PC + 2) mod 65536` (R200, R24). -/
def advance (s : State) : State := s.setPc (s.pc + 2)

end State

/-! ### How a handler ends -/

/-- A handler that signals auto-advance (R203): the step adds 2 to PC. -/
def finish (s : State) : Result := .next s.advance

/-- A handler that has written PC itself (R203). -/
def finishAt (target : Word) (s : State) : Result := .next (s.setPc target)

/-- The end of a conditional skip: PC + 4 if the condition holds, else PC + 2 (R114, R203). -/
def skipIf (cond : Bool) (s : State) : Result := finishAt (if cond then s.pc + 4 else s.pc + 2) s

/-! ### Exceptions -/

/-- `raise e`: the state from before the step, with `e` in the latch and `Fault(e)` emitted; nothing else changes and PC
keeps the address of the instruction (R13, R241, R242). -/
def raise (e : Exception) (s : State) : Result := .next ((s.setFault e).emit (.fault e))

/-- The way back from an exception: there is none but `reset` (R243). Every piece of state takes its value of R41, keys
stay, and one `Render` is emitted (R260, R264). The parameters and the model's record stay. -/
def resetCore (s : State) : State :=
  ({ State.powerOn s.cfg with keys := s.keys, io := s.io } : State).emit .render

/-- The range check of R51 for `count` bytes from `base` on, made before any write: inside memory the handler goes on,
else MemoryFault(kind, lowest bad address) is raised. An access of no byte is in range (R166). -/
def inRange (kind : FaultKind) (base count : Nat) (s : State) (go : Result) : Result :=
  if count = 0 ∨ base + count ≤ memSize then go else raise (.memoryFault kind (max base memSize)) s

/-! ### Numeric codes (R230, decision D21) -/

/-- The numeric code of a MemoryFault kind. -/
def FaultKind.code : FaultKind → Nat
  | .fetch => 0
  | .dataRead => 1
  | .dataWrite => 2
  | .stackOverflow => 3
  | .stackUnderflow => 4
  | .keyIndex => 5

/-- The numeric code of an exception. -/
def Exception.code : Exception → Nat
  | .unsupportedInstruction _ => 1
  | .memoryFault _ _ => 2

end Sys2Proof.Machine
end

