-- ==== Sys2Proof/Machine/Operands.lean ====
section
/-! DEFINITION. The operand forms of spec/30_encoding.md R85: immediates extended with zeros, the index base with
offsets as unbounded sums (spec/42_memory_index.md), register runs (R154, R155), and the key number of the key skips
(spec/44_keyboard_timers.md R180). -/

namespace Sys2Proof.Machine

/-- `zext_16(NNN)` (R85). -/
def addrOperand (nnn : Addr) : Word := nnn.setWidth 16

/-- `zext_16(b)` of a register value (R118). -/
def byteOperand (b : Byte) : Word := b.setWidth 16

/-- A key number as a byte: `zext_8(k)` (R214). -/
def keyByte (k : Nibble) : Byte := k.setWidth 8

/-- The base address `I` as an unbounded integer, to which offsets are added exactly (R51, R130). -/
def State.base (s : State) : Nat := s.i.toNat

/-- The values of V0..VX (R154): X is the index of the last register, not its content. -/
def State.regsUpTo (s : State) (x : Nibble) : List Byte :=
  (List.range (x.toNat + 1)).map fun k => s.getV (BitVec.ofNat 4 k)

/-- V after V0..VX take the bytes at `I`, `I + 1`, …, `I + X`; the registers above X stay (R155). -/
def State.regsFromMem (s : State) (x : Nibble) : Vector Byte 16 :=
  Vector.ofFn fun k => if k.val ≤ x.toNat then s.byteAt (s.base + k.val) else s.v[k]

/-- The key a key skip asks about: `V[X]`, all eight bits of it, raising key_index above 15 (R180, R66). -/
def withKey (k : Byte) (s : State) (go : Bool → Result) : Result :=
  if k.toNat > 15 then raise (.memoryFault .keyIndex k.toNat) s else go (s.isPressed (k.setWidth 4))

end Sys2Proof.Machine
end

