-- ==== Sys2Proof/Machine/Flags.lean ====
section
/-! DEFINITION. The results and flags of spec/41_alu.md R130, computed exactly and narrowed at the end, the write order
of R131, and the flag of draw-sprite (spec/43_display.md R168). -/

namespace Sys2Proof.Machine

/-- A flag as the byte VF receives. -/
def flagByte (b : Bool) : Byte := if b then 1 else 0

/-- `(a + b) mod 256` (R130). -/
def addResult (a b : Byte) : Byte := BitVec.ofNat 8 (a.toNat + b.toNat)
/-- Carry: 1 exactly when `a + b > 255` (R130). -/
def carry (a b : Byte) : Byte := flagByte (decide (a.toNat + b.toNat > 255))
/-- `(a − b) mod 256` (R130). -/
def subResult (a b : Byte) : Byte := BitVec.ofNat 8 (a.toNat + 256 - b.toNat)
/-- No borrow: 1 exactly when `a ≥ b` (R130). -/
def noBorrow (a b : Byte) : Byte := flagByte (decide (a.toNat ≥ b.toNat))
/-- `a div 2` (R130). -/
def shrResult (a : Byte) : Byte := BitVec.ofNat 8 (a.toNat / 2)
/-- The bit shifted out to the right, `a mod 2` (R130). -/
def shrOut (a : Byte) : Byte := BitVec.ofNat 8 (a.toNat % 2)
/-- `(a * 2) mod 256` (R130). -/
def shlResult (a : Byte) : Byte := BitVec.ofNat 8 (a.toNat * 2)
/-- The bit shifted out to the left, `a div 128` (R130). -/
def shlOut (a : Byte) : Byte := BitVec.ofNat 8 (a.toNat / 128)

/-- The end of a flag-producing ALU operation: the flag is written to VF first and the result to `V[X]` second, so that
with X = 15 the result stays (R131, decision D10). -/
def finishFlagged (x : Nibble) (flag result : Byte) (s : State) : Result :=
  finish ((s.setV 15 flag).setV x result)

/-- VF as draw-sprite finds it before the first bit: the `or` mode clears it (R166, R168). -/
def drawFlagStart (mode : DrawVfMode) (vf : Byte) : Byte :=
  match mode with
  | .last => vf
  | .or => 0

/-- `UpdateVF(erased)` (R168). -/
def drawFlag (mode : DrawVfMode) (erased vf : Byte) : Byte :=
  match mode with
  | .last => erased
  | .or => if erased = 1 then 1 else vf

/-- One toggled bit of a sprite: the pixel flips, and it counts as erased when its new value is 0 (R166). The pair is
the display buffer and VF. -/
def plot (mode : DrawVfMode) (acc : Raster × Byte) (p : Pixel) : Raster × Byte :=
  let d := acc.1.toggle p
  (d, drawFlag mode (flagByte (!d.lit p)) acc.2)

/-- The toggling of a sprite's pixels in their order, VF starting from its value before the instruction (R166). -/
def plotAll (mode : DrawVfMode) (d : Raster) (vf : Byte) (ps : List Pixel) : Raster × Byte :=
  ps.foldl (plot mode) (d, drawFlagStart mode vf)

end Sys2Proof.Machine
end

