-- ==== Sys2Proof/Machine/Alu.lean ====
section
/-! DEFINITION. The register and arithmetic instructions (spec/41_alu.md R130 to R143). All operands are read before any
write (R131). -/

namespace Sys2Proof.Machine

/-- set-imm (R132). -/
def execSetImm (x : Nibble) (nn : Byte) (s : State) : Result := finish (s.setV x nn)

/-- add-imm (R133): no flag. -/
def execAddImm (x : Nibble) (nn : Byte) (s : State) : Result := finish (s.setV x (addResult (s.getV x) nn))

/-- set-reg (R134). -/
def execSetReg (x y : Nibble) (s : State) : Result := finish (s.setV x (s.getV y))

/-- or (R135): VF is not written as a flag. -/
def execOrReg (x y : Nibble) (s : State) : Result := finish (s.setV x (s.getV x ||| s.getV y))

/-- and (R136): VF is not written as a flag. -/
def execAndReg (x y : Nibble) (s : State) : Result := finish (s.setV x (s.getV x &&& s.getV y))

/-- xor (R137): VF is not written as a flag. -/
def execXorReg (x y : Nibble) (s : State) : Result := finish (s.setV x (s.getV x ^^^ s.getV y))

/-- add-reg (R138): VF = carry. -/
def execAddReg (x y : Nibble) (s : State) : Result :=
  finishFlagged x (carry (s.getV x) (s.getV y)) (addResult (s.getV x) (s.getV y)) s

/-- sub-reg (R139): VX − VY, VF = no borrow. -/
def execSubReg (x y : Nibble) (s : State) : Result :=
  finishFlagged x (noBorrow (s.getV x) (s.getV y)) (subResult (s.getV x) (s.getV y)) s

/-- shift-right (R140): VF = bit 0 of VX; Y is ignored (R90). -/
def execShiftRight (x _y : Nibble) (s : State) : Result :=
  finishFlagged x (shrOut (s.getV x)) (shrResult (s.getV x)) s

/-- sub-reg-rev (R141): VY − VX, VF = no borrow. -/
def execSubRegRev (x y : Nibble) (s : State) : Result :=
  finishFlagged x (noBorrow (s.getV y) (s.getV x)) (subResult (s.getV y) (s.getV x)) s

/-- shift-left (R142): VF = bit 7 of VX; Y is ignored (R90). -/
def execShiftLeft (x _y : Nibble) (s : State) : Result :=
  finishFlagged x (shlOut (s.getV x)) (shlResult (s.getV x)) s

/-- random-and (R143): the input `rnd` of this cycle masked by NN. -/
def execRandomAnd (x : Nibble) (nn : Byte) (s : State) : Result := finish (s.setV x (s.io.rnd &&& nn))

end Sys2Proof.Machine
end

