-- ==== Sys2Proof/Machine/ControlFlow.lean ====
section
/-! DEFINITION. The control-flow instructions (spec/40_control_flow.md R110 to R118). -/

namespace Sys2Proof.Machine

/-- return (R110): one pop of the stack; on an empty stack stack_underflow is raised. -/
def execRet (s : State) : Result :=
  if s.sp = 0 then raise (.memoryFault .stackUnderflow 0) s
  else finishAt (s.getStack (s.sp - 1)) (s.setSp (s.sp - 1))

/-- no-op (R111): nothing; NNN is ignored. -/
def execNoOp (_nnn : Addr) (s : State) : Result := finish s

/-- jump (R112): PC ← NNN. -/
def execJump (nnn : Addr) (s : State) : Result := finishAt (addrOperand nnn) s

/-- call (R113): the address of the next instruction is pushed; with SP = 15 stack_overflow is raised. -/
def execCall (nnn : Addr) (s : State) : Result :=
  if s.sp = 15 then raise (.memoryFault .stackOverflow 15) s
  else finishAt (addrOperand nnn) ((s.setStack s.sp (s.pc + 2)).setSp (s.sp + 1))

/-- skip-eq-imm (R114). -/
def execSkipEqImm (x : Nibble) (nn : Byte) (s : State) : Result := skipIf (s.getV x == nn) s

/-- skip-neq-imm (R115). -/
def execSkipNeqImm (x : Nibble) (nn : Byte) (s : State) : Result := skipIf (s.getV x != nn) s

/-- skip-eq-reg (R116); the low nibble is ignored (R90). -/
def execSkipEqReg (x y _n : Nibble) (s : State) : Result := skipIf (s.getV x == s.getV y) s

/-- skip-neq-reg (R117); the low nibble is ignored (R90). -/
def execSkipNeqReg (x y _n : Nibble) (s : State) : Result := skipIf (s.getV x != s.getV y) s

/-- jump-plus-v0 (R118): PC ← NNN + V0, a 16-bit sum. -/
def execJumpPlusV0 (nnn : Addr) (s : State) : Result := finishAt (addrOperand nnn + byteOperand (s.getV 0)) s

end Sys2Proof.Machine
end

