-- ==== Sys2Proof/Machine/Index.lean ====
section
/-! DEFINITION. The index-register and memory instructions (spec/42_memory_index.md R150 to R155). -/

namespace Sys2Proof.Machine

/-- The three decimal digits of a byte, hundreds first (R153). -/
def bcdDigits (b : Byte) : List Byte :=
  [BitVec.ofNat 8 (b.toNat / 100), BitVec.ofNat 8 (b.toNat / 10 % 10), BitVec.ofNat 8 (b.toNat % 10)]

/-- set-index (R150). -/
def execSetIndex (nnn : Addr) (s : State) : Result := finish (s.setI (addrOperand nnn))

/-- add-to-index (R151): 16-bit wrap, no flag. -/
def execAddToIndex (x : Nibble) (s : State) : Result := finish (s.setI (s.i + byteOperand (s.getV x)))

/-- font-char-address (R152): all eight bits of VX times 5. -/
def execFontCharAddress (x : Nibble) (s : State) : Result :=
  finish (s.setI (BitVec.ofNat 16 ((s.getV x).toNat * 5)))

/-- store-bcd (R153). -/
def execStoreBcd (x : Nibble) (s : State) : Result :=
  inRange .dataWrite s.base 3 s (finish (s.writeBytes s.base (bcdDigits (s.getV x))))

/-- reg-dump (R154): X + 1 bytes; I stays. -/
def execRegDump (x : Nibble) (s : State) : Result :=
  inRange .dataWrite s.base (x.toNat + 1) s (finish (s.writeBytes s.base (s.regsUpTo x)))

/-- reg-load (R155): X + 1 bytes; I stays. -/
def execRegLoad (x : Nibble) (s : State) : Result :=
  inRange .dataRead s.base (x.toNat + 1) s (finish (s.setRegs (s.regsFromMem x)))

end Sys2Proof.Machine
end

