-- ==== Sys2Proof/Machine/Keyboard.lean ====
section
/-! DEFINITION. The keyboard and timer instructions (spec/44_keyboard_timers.md R180 to R185). -/

namespace Sys2Proof.Machine

/-- skip-if-key-pressed (R180). -/
def execSkipIfKeyPressed (x : Nibble) (s : State) : Result := withKey (s.getV x) s fun down => skipIf down s

/-- skip-if-key-not-pressed (R181). -/
def execSkipIfKeyNotPressed (x : Nibble) (s : State) : Result := withKey (s.getV x) s fun down => skipIf (!down) s

/-- wait-key (R182): the core halts and PC moves past the instruction in the same step; the register is written later,
by the key event that ends the wait (R214). -/
def execWaitKey (x : Nibble) (s : State) : Result := finish ((s.setHalt true).setWaitX x)

/-- get-delay-timer (R183). -/
def execGetDelayTimer (x : Nibble) (s : State) : Result := finish (s.setV x s.dt)

/-- set-delay-timer (R184): no notification. -/
def execSetDelayTimer (x : Nibble) (s : State) : Result := finish (s.setDt (s.getV x))

/-- set-sound-timer (R185): no notification. -/
def execSetSoundTimer (x : Nibble) (s : State) : Result := finish (s.setSt (s.getV x))

end Sys2Proof.Machine
end

