-- ==== Sys2Proof/Machine/Screen.lean ====
section
/-! DEFINITION. The display instructions (spec/43_display.md R165 to R171). -/

namespace Sys2Proof.Machine

/-- clear-screen (R165): every pixel 0, one `Render`. -/
def execClearScreen (s : State) : Result := finish (s.clearDisplay.emit .render)

/-- The pixels draw-sprite toggles in a state, in order; `V[X]`, `V[Y]` and `I` are read here once (R166, R169). -/
def State.spriteAt (s : State) (x y n : Nibble) : List Pixel :=
  spritePixels s.cfg (s.getV x).toNat (s.getV y).toNat (s.bytesAt s.base n.toNat)

/-- The display buffer and VF after draw-sprite (R166, R168). -/
def State.drawn (s : State) (x y n : Nibble) : Raster × Byte :=
  plotAll s.cfg.drawVf s.display (s.getV 15) (s.spriteAt x y n)

/-- draw-sprite (R166): N bytes from I are range-checked first, none when N = 0; then the sprite is toggled in, VF is
written and one `Render` is emitted. -/
def execDrawSprite (x y n : Nibble) (s : State) : Result :=
  inRange .dataRead s.base n.toNat s
    (finish (((s.setDisplay (s.drawn x y n).1).setV 15 (s.drawn x y n).2).emit .render))

end Sys2Proof.Machine
end

