-- ==== Sys2Proof/Machine/Cycle.lean ====
section
/-! DEFINITION. The machine's steps, one for each input event (spec/50_machine_cycle.md R200 to R216;
spec/70_reset_and_hazards.md R260): fetch, decode and dispatch; the timers; the keys; `load`; and the order in which
waiting events are taken (log 6). -/

namespace Sys2Proof.Machine

/-! ### cycle -/

/-- Fetch: two bytes at PC, big-endian, at any parity; a byte outside memory raises fetch (R200, R52, R232). -/
def fetch (s : State) : Except Exception Word :=
  if s.pc.toNat + 1 < memSize then .ok (wordOfBytes (s.byteAt s.pc.toNat) (s.byteAt (s.pc.toNat + 1)))
  else .error (.memoryFault .fetch (max s.pc.toNat memSize))

/-- Fetch, decode, dispatch; the input `rnd` stands in the state (R200). While faulted or halted nothing happens (R202,
R201). -/
def cycle (s : State) : Result :=
  if s.fault.isSome then .next s
  else if s.halt then .next s
  else
    match fetch s with
    | .error e => raise e s
    | .ok w =>
      match decode w with
      | .error _ => raise (.unsupportedInstruction w) s
      | .ok i => exec i s

/-! ### The other events -/

/-- A timer counts down to 0 and stays there (R205). -/
def countDown (b : Byte) : Byte := if b = 0 then 0 else b - 1

/-- tick (R205, R206): both timers, then one sound notification by the new value of ST. `halt` is not looked at
(R207). -/
def tick (s : State) : State :=
  if s.fault.isSome then s
  else
    ((s.setDt (countDown s.dt)).setSt (countDown s.st)).emit
      (if countDown s.st = 0 then .soundOff else .soundOn)

/-- key_press(k) (R214): the key is down, and a pending wait ends with its number in `V[wait_x]`. -/
def keyPress (k : Nibble) (s : State) : State :=
  if s.fault.isSome then s
  else if s.halt then ((s.setKey k true).setV s.waitX (keyByte k)).setHalt false
  else s.setKey k true

/-- key_release(k) (R215). -/
def keyRelease (k : Nibble) (s : State) : State :=
  if s.fault.isSome then s else s.setKey k false

/-- load(bytes) (R216): a byte string that fits replaces memory, over the reset contents; a longer one is answered with
InvalidROM. -/
def load (bytes : List Byte) (s : State) : State :=
  if s.fault.isSome then s
  else if bytes.length > romMax then s.emit (.invalidRom bytes.length)
  else s.setMem (loadedMemory s.cfg bytes)

/-- One event (R208). -/
def deliver (e : Event) (s : State) : Result :=
  match e with
  | .cycle rnd => cycle (s.present rnd)
  | .tick => .next (tick s)
  | .keyPress k => .next (keyPress k s)
  | .keyRelease k => .next (keyRelease k s)
  | .reset => .next (resetCore s)
  | .load bytes => .next (load bytes s)

/-- The event the next step takes, and the state with it taken: the oldest waiting event, or, with none waiting, a
`cycle` with a free random byte (logs 6, 7). -/
def nextEvent (s : State) : Event × State :=
  match s.io.events with
  | [] => (.cycle (Config.freeRnd s.io.draws), s.setIo { s.io with draws := s.io.draws + 1 })
  | e :: rest => (e, s.setIo { s.io with events := rest })

/-- A state whose next step fetches at its PC: no event waits, nothing is pending, and PC has two bytes of memory. What
already holds is left as it is (log 11). -/
def readyToFetch (s : State) : State :=
  { s with
    fault := none, halt := false, io := { s.io with events := [] },
    pc := if s.pc.toNat + 1 < memSize then s.pc else BitVec.ofNat 16 programOrigin }

/-- One instruction, given by its word as the opcode table numbers it, stored at PC in memory order (R52). -/
def placeWord (s : State) (nbits w : Nat) : State :=
  let word : Word := BitVec.ofNat 16 (w % 2 ^ nbits)
  s.writeBytes s.pc.toNat [highByte word, lowByte word]

end Sys2Proof.Machine
end

