-- ==== Sys2Proof/Machine/Step.lean ====
section
/-! DEFINITION. One step of the machine: the next input event, delivered (spec/50_machine_cycle.md R208). -/

namespace Sys2Proof.Machine

/-- One step. -/
def step (s : State) : Host.Outcome State Fault Refusal := deliver (nextEvent s).1 (nextEvent s).2

/-- The state with one instruction placed where the next step fetches it (log 11). -/
def State.withFetchWord (s : State) (nbits w : Nat) : State := placeWord (readyToFetch s) nbits w

end Sys2Proof.Machine
end

