-- ==== Sys2Proof/Safety.lean ====
section
/-! DEFINITION. The terms claims are stated in: what an instruction may change (its frame), the tables of
spec/10_state.md R21, spec/50_machine_cycle.md R203 and spec/60_exceptions.md R239 as functions of the instruction, the
encodings as the instruction rules write them, the invariants of R42, and the end of a run (R275). -/

namespace Sys2Proof.Machine

/-! ### Encodings as the rules of files 40 to 44 write them -/

/-- `base | NNN`. -/
def wordNNN (base : Word) (nnn : Addr) : Word := base ||| nnn.setWidth 16
/-- `base | X << 8`. -/
def wordX (base : Word) (x : Nibble) : Word := base ||| (x.setWidth 16 <<< 8)
/-- `base | X << 8 | NN`. -/
def wordXNN (base : Word) (x : Nibble) (nn : Byte) : Word := wordX base x ||| nn.setWidth 16
/-- `base | X << 8 | Y << 4 | N`. -/
def wordXYN (base : Word) (x y n : Nibble) : Word := wordX base x ||| (y.setWidth 16 <<< 4) ||| n.setWidth 16

/-! ### Frames -/

/-- The pieces of state, other than PC, that an instruction may change. -/
structure Touched where
  /-- General registers. -/
  v : Bool := false
  /-- The index register. -/
  i : Bool := false
  /-- SP and the stack. -/
  stack : Bool := false
  /-- The delay timer. -/
  dt : Bool := false
  /-- The sound timer. -/
  st : Bool := false
  /-- The pending wait: `halt` and `wait_x`. -/
  wait : Bool := false
  /-- Memory. -/
  mem : Bool := false
  /-- The display buffer. -/
  display : Bool := false
  /-- The notifications sent. -/
  out : Bool := false
  deriving DecidableEq, Repr

/-- `t` agrees with `s` on everything but PC and the pieces named. The fault latch, the keys, the parameters and the
inputs agree in any case; memory is compared byte by byte and the display pixel by pixel. -/
def Frame (k : Touched) (s t : State) : Prop :=
  (k.v = false → ∀ r, t.getV r = s.getV r) ∧
  (k.i = false → t.i = s.i) ∧
  (k.stack = false → t.sp = s.sp ∧ ∀ j, t.getStack j = s.getStack j) ∧
  (k.dt = false → t.dt = s.dt) ∧
  (k.st = false → t.st = s.st) ∧
  (k.wait = false → t.halt = s.halt ∧ t.waitX = s.waitX) ∧
  (k.mem = false → ∀ a, t.byteAt a = s.byteAt a) ∧
  (k.display = false → ∀ p, t.pixel p = s.pixel p) ∧
  (k.out = false → t.io.out = s.io.out) ∧
  t.fault = s.fault ∧ (∀ j, t.isPressed j = s.isPressed j) ∧ t.cfg = s.cfg ∧
  t.io.events = s.io.events ∧ t.io.rnd = s.io.rnd ∧ t.io.draws = s.io.draws

/-- The state after `raise e` (R13, R241): the latch holds `e`, `Fault(e)` is sent, nothing else differs. -/
def faulted (s : State) (e : Exception) : State :=
  { s with fault := some e, io := { s.io with out := s.io.out ++ [.fault e] } }

/-- An operation that writes `b` to `V[x]` and nothing else but PC, which moves on by 2. -/
def WritesReg (i : Instr) (s : State) (x : Nibble) (b : Byte) : Prop :=
  ∃ t, exec i s = .next t ∧ t.pc = s.pc + 2 ∧ (∀ r, t.getV r = if r = x then b else s.getV r) ∧
    Frame { v := true } s t

/-- A flag-producing operation: `flag` to VF, then `b` to `V[x]`, so that `b` stays where they meet (R131). -/
def WritesRegFlag (i : Instr) (s : State) (x : Nibble) (flag b : Byte) : Prop :=
  ∃ t, exec i s = .next t ∧ t.pc = s.pc + 2 ∧
    (∀ r, t.getV r = if r = x then b else if r = 15 then flag else s.getV r) ∧ Frame { v := true } s t

/-- An operation that sets PC and changes nothing else. -/
def WritesPc (i : Instr) (s : State) (target : Word) : Prop :=
  ∃ t, exec i s = .next t ∧ t.pc = target ∧ Frame {} s t

/-- An operation that sets I and changes nothing else but PC, which moves on by 2. -/
def WritesIndex (i : Instr) (s : State) (w : Word) : Prop :=
  ∃ t, exec i s = .next t ∧ t.pc = s.pc + 2 ∧ t.i = w ∧ Frame { i := true } s t

/-! ### The spec's tables as functions of the instruction -/

/-- Which registers an operation reads (R21). -/
def readsReg : Instr → Nibble → Bool
  | .skipEqImm x _, r | .skipNeqImm x _, r | .addImm x _, r | .shiftRight x _, r | .shiftLeft x _, r
  | .skipIfKeyPressed x, r | .skipIfKeyNotPressed x, r | .setDelayTimer x, r | .setSoundTimer x, r
  | .addToIndex x, r | .fontCharAddress x, r | .storeBcd x, r => r == x
  | .skipEqReg x y _, r | .skipNeqReg x y _, r | .orReg x y, r | .andReg x y, r | .xorReg x y, r
  | .addReg x y, r | .subReg x y, r | .subRegRev x y, r | .drawSprite x y _, r => r == x || r == y
  | .setReg _ y, r => r == y
  | .jumpPlusV0 _, r => r == 0
  | .regDump x, r => decide (r.toNat ≤ x.toNat)
  | .clearScreen, _ | .ret, _ | .noOp _, _ | .jump _, _ | .call _, _ | .setImm _ _, _ | .setIndex _, _
  | .randomAnd _ _, _ | .getDelayTimer _, _ | .waitKey _, _ | .regLoad _, _ => false

/-- Which registers an operation writes while it executes (R21). -/
def writesReg : Instr → Nibble → Bool
  | .setImm x _, r | .addImm x _, r | .setReg x _, r | .orReg x _, r | .andReg x _, r | .xorReg x _, r
  | .randomAnd x _, r | .getDelayTimer x, r => r == x
  | .addReg x _, r | .subReg x _, r | .shiftRight x _, r | .subRegRev x _, r | .shiftLeft x _, r =>
    r == x || r == 15
  | .drawSprite _ _ _, r => r == 15
  | .regLoad x, r => decide (r.toNat ≤ x.toNat)
  | .clearScreen, _ | .ret, _ | .noOp _, _ | .jump _, _ | .call _, _ | .skipEqImm _ _, _ | .skipNeqImm _ _, _
  | .skipEqReg _ _ _, _ | .skipNeqReg _ _ _, _ | .setIndex _, _ | .jumpPlusV0 _, _ | .skipIfKeyPressed _, _
  | .skipIfKeyNotPressed _, _ | .waitKey _, _ | .setDelayTimer _, _ | .setSoundTimer _, _ | .addToIndex _, _
  | .fontCharAddress _, _ | .storeBcd _, _ | .regDump _, _ => false

/-- Whether the handler signals auto-advance (R203): 25 operations do, 10 write PC themselves. -/
def autoAdvances : Instr → Bool
  | .ret | .jump _ | .call _ | .skipEqImm _ _ | .skipNeqImm _ _ | .skipEqReg _ _ _ | .skipNeqReg _ _ _
  | .jumpPlusV0 _ | .skipIfKeyPressed _ | .skipIfKeyNotPressed _ => false
  | .clearScreen | .noOp _ | .setImm _ _ | .addImm _ _ | .setReg _ _ | .orReg _ _ | .andReg _ _ | .xorReg _ _
  | .addReg _ _ | .subReg _ _ | .shiftRight _ _ | .subRegRev _ _ | .shiftLeft _ _ | .setIndex _ | .randomAnd _ _
  | .drawSprite _ _ _ | .getDelayTimer _ | .waitKey _ | .setDelayTimer _ | .setSoundTimer _ | .addToIndex _
  | .fontCharAddress _ | .storeBcd _ | .regDump _ | .regLoad _ => true

/-- The one kind of exception a handler can raise (R239); 27 raise none. -/
def canRaise : Instr → Option FaultKind
  | .ret => some .stackUnderflow
  | .call _ => some .stackOverflow
  | .skipIfKeyPressed _ | .skipIfKeyNotPressed _ => some .keyIndex
  | .drawSprite _ _ _ | .regLoad _ => some .dataRead
  | .storeBcd _ | .regDump _ => some .dataWrite
  | .clearScreen | .noOp _ | .jump _ | .skipEqImm _ _ | .skipNeqImm _ _ | .skipEqReg _ _ _ | .setImm _ _
  | .addImm _ _ | .setReg _ _ | .orReg _ _ | .andReg _ _ | .xorReg _ _ | .addReg _ _ | .subReg _ _
  | .shiftRight _ _ | .subRegRev _ _ | .shiftLeft _ _ | .skipNeqReg _ _ _ | .setIndex _ | .jumpPlusV0 _
  | .randomAnd _ _ | .getDelayTimer _ | .waitKey _ | .setDelayTimer _ | .setSoundTimer _ | .addToIndex _
  | .fontCharAddress _ => none

/-- The pieces of state an operation may change besides PC when it completes (R21, R29 to R36, R55, R171). -/
def touches : Instr → Touched
  | .clearScreen => { display := true, out := true }
  | .ret | .call _ => { stack := true }
  | .setImm _ _ | .addImm _ _ | .setReg _ _ | .orReg _ _ | .andReg _ _ | .xorReg _ _ | .addReg _ _ | .subReg _ _
  | .shiftRight _ _ | .subRegRev _ _ | .shiftLeft _ _ | .randomAnd _ _ | .getDelayTimer _ | .regLoad _ => { v := true }
  | .setIndex _ | .addToIndex _ | .fontCharAddress _ => { i := true }
  | .drawSprite _ _ _ => { v := true, display := true, out := true }
  | .waitKey _ => { wait := true }
  | .setDelayTimer _ => { dt := true }
  | .setSoundTimer _ => { st := true }
  | .storeBcd _ | .regDump _ => { mem := true }
  | .noOp _ | .jump _ | .skipEqImm _ _ | .skipNeqImm _ _ | .skipEqReg _ _ _ | .skipNeqReg _ _ _ | .jumpPlusV0 _
  | .skipIfKeyPressed _ | .skipIfKeyNotPressed _ => {}

/-- A result with a change made to its next state. -/
def mapNext (f : State → State) : Result → Result
  | .next s => .next (f s)
  | .fault r => .fault r
  | .refused r => .refused r

/-- How many words satisfy a test, counted high byte by high byte. -/
def countWords (p : Word → Bool) : Nat :=
  ((List.range 256).map fun h => (List.range 256).countP fun l => p (BitVec.ofNat 16 (256 * h + l))).sum

/-- The decoder refuses the word. -/
def rejected (w : Word) : Bool := (decode w).toOption.isNone

/-! ### Sprites, bit by bit -/

/-- Where bit (`row`, `col`) of a sprite at I lands: nowhere when it is 0 or not placed, else where R167 places it,
counted from the old `V[X]` and `V[Y]`; columns from the left, so that column 0 is bit 7 (R166). -/
def lands (s : State) (x y : Nibble) (row col : Nat) : Option Pixel :=
  if (s.byteAt (s.i.toNat + row)).getLsbD (7 - col) then place s.cfg ((s.getV x).toNat + col) ((s.getV y).toNat + row)
  else none

/-- How many bits of a sprite of `n` rows land on a pixel. -/
def landings (s : State) (x y n : Nibble) (p : Pixel) : Nat :=
  ((List.range n.toNat).map fun row => (List.range 8).countP fun col => lands s x y row col = some p).sum

/-- The order of the bits of a sprite: rows from the top, and columns from the left in a row (R166). -/
abbrev bitBefore (row col row' col' : Nat) : Prop := row < row' ∨ (row = row' ∧ col < col')

/-! ### Events -/

/-- The state a `cycle` event finds: the event taken from the waiting list, and its random byte on the input `rnd`. -/
def cycleInput (s : State) (rnd : Byte) : State := (nextEvent s).2.present rnd

/-- Events delivered one after another (R208, R209 (a)); the waiting list is not looked at. -/
def deliverAll : List Event → State → Result
  | [], s => .next s
  | e :: es, s =>
    match deliver e s with
    | .next t => deliverAll es t
    | .fault r => .fault r
    | .refused r => .refused r

/-! ### Invariants -/

/-- Memory is in canonical form: addresses in 0..4095, rising, no cell equal to its reset contents. -/
def MemoryCanonical (s : State) : Prop := s.mem.wf s.cfg

/-- The grid has a pixel, and the lit pixels are on it, in raster order (R42: every pixel is 0 or 1). -/
def DisplayCanonical (s : State) : Prop := s.cfg.wf ∧ s.display.wf s.cfg

/-- PC is at most 0x10FE and every live stack entry at most 0x1000 (R25). -/
def PcBounded (s : State) : Prop :=
  s.pc.toNat ≤ 0x10FE ∧ ∀ k : Nibble, k.toNat < s.sp.toNat → (s.getStack k).toNat ≤ 0x1000

/-- The last stack slot holds its reset value: it is never written (R31). -/
def TopSlotUnused (s : State) : Prop := s.getStack 15 = 0

/-- The exceptions some step can record, with their values (R231 to R235). -/
def Exception.legal : Exception → Prop
  | .unsupportedInstruction w => decode w = .error (.unsupported w)
  | .memoryFault .fetch a => 4096 ≤ a ∧ a ≤ 0x10FE
  | .memoryFault .dataRead a => 4096 ≤ a ∧ a ≤ 65535
  | .memoryFault .dataWrite a => 4096 ≤ a ∧ a ≤ 65535
  | .memoryFault .stackOverflow k => k = 15
  | .memoryFault .stackUnderflow k => k = 0
  | .memoryFault .keyIndex k => 16 ≤ k ∧ k ≤ 255

/-- The latch holds nothing or an exception some step can record. -/
def LatchLegal (s : State) : Prop := ∀ e, s.fault = some e → e.legal

/-- All invariants together (R42). -/
structure Inv (s : State) : Prop where
  /-- Memory is canonical. -/
  mem : MemoryCanonical s
  /-- The display is canonical. -/
  display : DisplayCanonical s
  /-- PC and the live stack entries are bounded. -/
  pc : PcBounded s
  /-- The last stack slot is unused. -/
  slot : TopSlotUnused s
  /-- The latch is legal. -/
  latch : LatchLegal s

/-- The end of a run (R275): not faulted, not halted, and the word at PC is a jump to PC. -/
abbrev finished (s : State) : Prop :=
  s.fault = none ∧ s.halt = false ∧ fetch s = .ok (0x1000#16 ||| s.pc)

end Sys2Proof.Machine
end

