-- ==== Sys2Proof/Certificates/Slice0/Obligations.lean ====
section
/-! DEFINITION. The statements for the provers, from the numbered rules of spec/. Statements about one instruction carry
its encoding, the state it completes in, its result, its frame and the exception it can raise. -/

open Sys2Proof Sys2Proof.Machine

/-! ### Encoding -/

/-- R92: every choice of operand fields of every row makes a word that decodes to that operation with those fields. -/
def Obligations.DecodeEncodeRoundTrip : Prop :=
  ∀ i : Instr, i.WellFormed → decode (encode i) = .ok i

/-- R92, the other way: a decoded word is the word of the instruction it decodes to, so no bit is lost. -/
def Obligations.EncodeDecodeRoundTrip : Prop :=
  ∀ (w : Word) (i : Instr), decode w = .ok i → i.WellFormed ∧ encode i = w

/-- R89: the decoder by group and sub-opcode names the operation that the opcode map, searched first match first,
names. -/
def Obligations.DecodeAgreesWithOpcodeTable : Prop :=
  ∀ w : Word, lookupName w = (decode w).toOption.map Instr.mnemonic

/-- From R91, which the spec marks as its own inference from R87 to R89: which words are unsupported, and how many there
are. The sub-opcodes are the spec's decision D1 (log 4, PRESUMED). -/
def Obligations.UnsupportedWordsExactly : Prop :=
  (∀ w : Word, (decode w = .error (.unsupported w)) ↔
    ((groupOf w = 0x8 ∧ fieldN w ∈ [0x8#4, 0x9#4, 0xA#4, 0xB#4, 0xC#4, 0xD#4, 0xF#4]) ∨
     (groupOf w = 0xE ∧ fieldNN w ∉ [0x9E#8, 0xA1#8]) ∨
     (groupOf w = 0xF ∧
       fieldNN w ∉ [0x07#8, 0x0A#8, 0x15#8, 0x18#8, 0x1E#8, 0x29#8, 0x33#8, 0x55#8, 0x65#8]))) ∧
  (∀ w : Word, decode w = .error (.unsupported w) ∨ ∃ i, decode w = .ok i) ∧
  countWords (fun w => rejected w && groupOf w == 0x8) = 1792 ∧
  countWords (fun w => rejected w && groupOf w == 0xE) = 4064 ∧
  countWords (fun w => rejected w && groupOf w == 0xF) = 3952 ∧
  countWords rejected = 9808 ∧ countWords (fun w => !rejected w) = 55728

/-- From R90, which the spec marks as its own inference from R86 and R87: which bits are ignored, and that an alias
executes as its canonical spelling. Ignored nibbles are operands of the syntax by the model's choice (log 14). -/
def Obligations.IgnoredBitsHaveNoEffect : Prop :=
  (∀ x y n : Nibble, decode (wordXYN 0x5000 x y n) = .ok (.skipEqReg x y n) ∧
      decode (wordXYN 0x9000 x y n) = .ok (.skipNeqReg x y n)) ∧
  (∀ x y : Nibble, decode (wordXYN 0x8006 x y 0) = .ok (.shiftRight x y) ∧
      decode (wordXYN 0x800E x y 0) = .ok (.shiftLeft x y)) ∧
  (∀ nnn : Addr, nnn ≠ 0x0E0 → nnn ≠ 0x0EE → decode (wordNNN 0x0000 nnn) = .ok (.noOp nnn)) ∧
  (∀ w : Word, (decode w = .ok .clearScreen ↔ w = 0x00E0) ∧ (decode w = .ok .ret ↔ w = 0x00EE)) ∧
  (∀ (x y n : Nibble) (nnn : Addr) (s : State),
    exec (.skipEqReg x y n) s = exec (.skipEqReg x y 0) s ∧
    exec (.skipNeqReg x y n) s = exec (.skipNeqReg x y 0) s ∧
    exec (.shiftRight x y) s = exec (.shiftRight x 0) s ∧
    exec (.shiftLeft x y) s = exec (.shiftLeft x 0) s ∧
    exec (.noOp nnn) s = exec (.noOp 0) s)

/-- Sanity: words written out from R89 decode to the instructions they stand for, one or two of each family. -/
def Obligations.SampleWordsDecode : Prop :=
  decode 0xD015 = .ok (.drawSprite 0x0 0x1 0x5) ∧ decode 0x8AB4 = .ok (.addReg 0xA 0xB) ∧
  decode 0xF265 = .ok (.regLoad 0x2) ∧ decode 0x00E0 = .ok .clearScreen ∧ decode 0x00EE = .ok .ret ∧
  decode 0x0123 = .ok (.noOp 0x123) ∧ decode 0x512F = .ok (.skipEqReg 0x1 0x2 0xF) ∧
  decode 0x812E = .ok (.shiftLeft 0x1 0x2) ∧ decode 0xE29E = .ok (.skipIfKeyPressed 0x2) ∧
  decode 0xC10F = .ok (.randomAnd 0x1 0x0F) ∧ decode 0xE29F = .error (.unsupported 0xE29F)

/-! ### The cycle -/

/-- A step delivers the oldest waiting event; with none waiting it is a cycle with a free random byte (the model's
choice, logs 6 and 7). -/
def Obligations.StepTakesOldestEvent : Prop :=
  (∀ (s : State) (e : Event) (rest : List Event), s.io.events = e :: rest →
    step s = deliver e { s with io := { s.io with events := rest } }) ∧
  (∀ s : State, s.io.events = [] →
    step s = deliver (.cycle (Config.freeRnd s.io.draws)) { s with io := { s.io with draws := s.io.draws + 1 } })

/-- R200: a step whose event is a cycle runs the instruction that the two bytes at PC decode to. The instruction itself
moves PC (R203), so nothing is added around it. -/
def Obligations.StepRunsDecodedInstruction : Prop :=
  ∀ (s : State) (rnd : Byte) (i : Instr), (nextEvent s).1 = .cycle rnd → s.fault = none → s.halt = false →
    s.pc.toNat ≤ 4094 →
    decode (wordOfBytes (s.byteAt s.pc.toNat) (s.byteAt (s.pc.toNat + 1))) = .ok i →
    step s = exec i (cycleInput s rnd)

/-- An instruction placed by `withFetchWord` is the one the next step runs (the model's interface, log 11). -/
def Obligations.PlacedWordRunsNext : Prop :=
  ∀ (s : State) (w : Word) (i : Instr), MemoryCanonical s → decode w = .ok i →
    ∃ rnd, step (s.withFetchWord 16 w.toNat) = exec i (cycleInput (s.withFetchWord 16 w.toNat) rnd)

/-- R201: while halted a cycle changes no state and sends nothing; it does not fetch, so it cannot fault. -/
def Obligations.HaltedCycleDoesNothing : Prop :=
  ∀ (s : State) (rnd : Byte), (nextEvent s).1 = .cycle rnd → s.fault = none → s.halt = true →
    ∃ io, step s = .next { s with io := io } ∧ io.out = s.io.out

/-- R202: while faulted a cycle changes no state and sends nothing; and, from R241 and R38 (the spec's decision D12;
log 9), so for every other event but reset. -/
def Obligations.FaultedCoreIgnoresEvents : Prop :=
  ∀ s : State, s.fault ≠ none → (nextEvent s).1 ≠ .reset →
    ∃ io, step s = .next { s with io := io } ∧ io.out = s.io.out

/-- R232, with the byte order of R52: a cycle fetches two bytes, high byte first, at any PC up to 4094, and raises
MemoryFault(fetch, a) beyond, PC staying. -/
def Obligations.FetchOutsideMemoryRaises : Prop :=
  (∀ s : State, s.pc.toNat ≤ 4094 → ∃ w, fetch s = .ok w ∧
    w.toNat = (s.byteAt s.pc.toNat).toNat * 256 + (s.byteAt (s.pc.toNat + 1)).toNat) ∧
  (∀ (s : State) (rnd : Byte), (nextEvent s).1 = .cycle rnd → s.fault = none → s.halt = false → 4094 < s.pc.toNat →
    step s = .next (faulted (cycleInput s rnd)
      (.memoryFault .fetch (if s.pc.toNat = 4095 then 4096 else s.pc.toNat))))

/-- R93: an unsupported word makes the cycle raise UnsupportedInstruction with that word; nothing but the latch
changes. -/
def Obligations.UnsupportedWordRaises : Prop :=
  ∀ (s : State) (rnd : Byte) (w : Word), (nextEvent s).1 = .cycle rnd → s.fault = none → s.halt = false →
    fetch s = .ok w → rejected w = true →
    step s = .next (faulted (cycleInput s rnd) (.unsupportedInstruction w)) ∧
      (faulted (cycleInput s rnd) (.unsupportedInstruction w)).pc = s.pc

/-- No step stops the model: every event, in every state, has a next state. -/
def Obligations.StepAlwaysAnswersNext : Prop := ∀ s : State, ∃ t, step s = .next t

/-- R242: a step that raises leaves everything but the latch as the previous step left it; and only a cycle raises
(R230). -/
def Obligations.ExceptionsArePrecise : Prop :=
  ∀ (s t : State) (e : Exception), step s = .next t → s.fault = none → t.fault = some e →
    (∃ rnd, (nextEvent s).1 = .cycle rnd ∧ t = faulted (cycleInput s rnd) e)

/-- R239: the one kind of exception each handler can raise; 27 operations raise none. -/
def Obligations.HandlerExceptionKinds : Prop :=
  ∀ (i : Instr) (s t : State) (e : Exception), s.fault = none → exec i s = .next t → t.fault = some e →
    ∃ kind value, canRaise i = some kind ∧ e = .memoryFault kind value

/-- R203: an operation of the auto class leaves PC at PC + 2, a conditional skip at PC + 2 or PC + 4. -/
def Obligations.ProgramCounterClasses : Prop :=
  ∀ (i : Instr) (s t : State), s.fault = none → exec i s = .next t → t.fault = none →
    (autoAdvances i = true → t.pc = s.pc + 2) ∧
    (i.mnemonic ∈ ["skip-eq-imm", "skip-neq-imm", "skip-eq-reg", "skip-neq-reg", "skip-if-key-pressed",
        "skip-if-key-not-pressed"] → t.pc = s.pc + 2 ∨ t.pc = s.pc + 4)

/-! ### The other events -/

/-- From R205, R206, R207: one tick. One notification at every tick, by the value after the decrement, is the spec's
decision D13, and that halt does not matter its decision D14 (log 19). -/
def Obligations.TickCountsDownAndSounds : Prop :=
  ∀ (s : State) (rest : List Event), s.io.events = .tick :: rest →
    (s.fault = none → ∃ t, step s = .next t ∧ t.dt.toNat = s.dt.toNat - 1 ∧ t.st.toNat = s.st.toNat - 1 ∧
      t.io.out = s.io.out ++ [if t.st.toNat > 0 then .soundOn else .soundOff] ∧
      t = { s with dt := t.dt, st := t.st, io := { s.io with events := rest, out := t.io.out } }) ∧
    (s.fault ≠ none → step s = .next { s with io := { s.io with events := rest } })

/-- From R205 and R206: `n` ticks in a row take `n` from each timer, floor 0, and the sound is on for exactly the
ticks after which ST is not 0 (R185). -/
def Obligations.TicksInARow : Prop :=
  ∀ (n : Nat) (s : State), s.fault = none →
    ∃ t, deliverAll (List.replicate n .tick) s = .next t ∧
      t.dt.toNat = s.dt.toNat - n ∧ t.st.toNat = s.st.toNat - n ∧
      t.io.out = s.io.out ++ (List.range n).map
        (fun k => if k + 1 < s.st.toNat then Output.soundOn else Output.soundOff) ∧
      t = { s with dt := t.dt, st := t.st, io := { s.io with out := t.io.out } }

/-- R214 and R215: one key event. -/
def Obligations.KeyEvents : Prop :=
  ∀ (s : State) (k : Nibble) (rest : List Event),
    (s.io.events = .keyPress k :: rest →
      (s.fault = none → ∃ t, step s = .next t ∧
        (∀ j, t.isPressed j = if j = k then true else s.isPressed j) ∧ t.halt = false ∧
        (∀ r, t.getV r = if s.halt = true ∧ r = s.waitX then k.setWidth 8 else s.getV r) ∧
        t = { s with keys := t.keys, halt := false, v := t.v, io := { s.io with events := rest } }) ∧
      (s.fault ≠ none → step s = .next { s with io := { s.io with events := rest } })) ∧
    (s.io.events = .keyRelease k :: rest →
      (s.fault = none → ∃ t, step s = .next t ∧
        (∀ j, t.isPressed j = if j = k then false else s.isPressed j) ∧
        t = { s with keys := t.keys, io := { s.io with events := rest } }) ∧
      (s.fault ≠ none → step s = .next { s with io := { s.io with events := rest } }))

/-- R216: `load`. -/
def Obligations.LoadReplacesMemory : Prop :=
  ∀ (s : State) (bytes : List Byte) (rest : List Event), s.io.events = .load bytes :: rest →
    (s.fault ≠ none → step s = .next { s with io := { s.io with events := rest } }) ∧
    (s.fault = none → bytes.length > 3584 → step s = .next { s with io := { s.io with
      events := rest, out := s.io.out ++ [.invalidRom bytes.length] } }) ∧
    (s.fault = none → bytes.length ≤ 3584 → ∃ t, step s = .next t ∧
      (∀ k (h : k < bytes.length), t.byteAt (0x200 + k) = bytes[k]) ∧
      (∀ g r (hg : g < 16) (hr : r < 5), t.byteAt (g * 5 + r) = s.cfg.font[g][r]) ∧
      (∀ a, 80 ≤ a → a < 4096 → (a < 0x200 ∨ 0x200 + bytes.length ≤ a) → t.byteAt a = 0) ∧
      t = { s with mem := t.mem, io := { s.io with events := rest } })

/-- From R260: `reset`, from any state, the faulted ones among them (R263). The values of I, the stack slots and wait_x
are the spec's decision D16, that the keys stay its decision D15, the latch its decision D12 (log 15). -/
def Obligations.ResetRestoresEveryPiece : Prop :=
  ∀ (s : State) (rest : List Event), s.io.events = .reset :: rest →
    ∃ t, step s = .next t ∧ (∀ r, t.getV r = 0) ∧ t.i = 0 ∧ t.pc = 0x200 ∧ t.sp = 0 ∧ (∀ j, t.getStack j = 0) ∧
      t.dt = 0 ∧ t.st = 0 ∧ t.halt = false ∧ t.waitX = 0 ∧ t.fault = none ∧
      (∀ g r (hg : g < 16) (hr : r < 5), t.byteAt (g * 5 + r) = s.cfg.font[g][r]) ∧
      (∀ a, 80 ≤ a → a < 4096 → t.byteAt a = 0) ∧ (∀ p, t.pixel p = false) ∧ t.keys = s.keys ∧ t.cfg = s.cfg ∧
      t.io = { s.io with events := rest, out := s.io.out ++ [.render] }

/-- From R261: power-on leaves what reset leaves, and every key up (the spec's decisions D15 and D16; log 15). The bytes
of glyph 1 are the table of R60, the spec's decision D4 (log 3, PRESUMED). -/
def Obligations.PowerOnIsResetWithKeysUp : Prop :=
  (∀ (s t : State), s.cfg = State.reset.cfg → deliver .reset s = .next t →
    State.reset = { t with keys := State.reset.keys, io := State.reset.io }) ∧
  (∀ k, State.reset.isPressed k = false) ∧ (∀ r, State.reset.getV r = 0) ∧ State.reset.i = 0 ∧
  State.reset.pc = 0x200 ∧ State.reset.sp = 0 ∧ State.reset.dt = 0 ∧ State.reset.st = 0 ∧ State.reset.halt = false ∧
  State.reset.fault = none ∧ State.reset.bytesAt 0 10 = [0xF0, 0x90, 0x90, 0x90, 0xF0, 0x20, 0x60, 0x20, 0x20, 0x70] ∧
  (∀ a, 80 ≤ a → a < 4096 → State.reset.byteAt a = 0) ∧ (∀ p, State.reset.pixel p = false)

/-! ### Register and arithmetic instructions -/

/-- R132 to R137: set, add, move and the bitwise operations write VX and no flag. -/
def Obligations.RegisterInstructions : Prop :=
  (∀ (x : Nibble) (nn : Byte) (s : State),
    decode (wordXNN 0x6000 x nn) = .ok (.setImm x nn) ∧ WritesReg (.setImm x nn) s x nn ∧
    decode (wordXNN 0x7000 x nn) = .ok (.addImm x nn) ∧ WritesReg (.addImm x nn) s x (s.getV x + nn)) ∧
  (∀ (x y : Nibble) (s : State),
    decode (wordXYN 0x8000 x y 0) = .ok (.setReg x y) ∧ WritesReg (.setReg x y) s x (s.getV y) ∧
    decode (wordXYN 0x8001 x y 0) = .ok (.orReg x y) ∧ WritesReg (.orReg x y) s x (s.getV x ||| s.getV y) ∧
    decode (wordXYN 0x8002 x y 0) = .ok (.andReg x y) ∧ WritesReg (.andReg x y) s x (s.getV x &&& s.getV y) ∧
    decode (wordXYN 0x8003 x y 0) = .ok (.xorReg x y) ∧ WritesReg (.xorReg x y) s x (s.getV x ^^^ s.getV y))

/-- From R138 to R142: the flag-producing operations. VF is written first and VX second, so with X = 15 the result stays:
for VF as the destination the statement depends on the spec's decision D10 (R131; log 18, DEDUCED). -/
def Obligations.FlagInstructions : Prop :=
  ∀ (x y : Nibble) (s : State),
    decode (wordXYN 0x8004 x y 0) = .ok (.addReg x y) ∧
    WritesRegFlag (.addReg x y) s x (if (s.getV x).toNat + (s.getV y).toNat > 255 then 1 else 0)
      (s.getV x + s.getV y) ∧
    decode (wordXYN 0x8005 x y 0) = .ok (.subReg x y) ∧
    WritesRegFlag (.subReg x y) s x (if (s.getV x).toNat ≥ (s.getV y).toNat then 1 else 0)
      (s.getV x - s.getV y) ∧
    decode (wordXYN 0x8006 x y 0) = .ok (.shiftRight x y) ∧
    WritesRegFlag (.shiftRight x y) s x (if (s.getV x).getLsbD 0 then 1 else 0) (s.getV x >>> 1) ∧
    decode (wordXYN 0x8007 x y 0) = .ok (.subRegRev x y) ∧
    WritesRegFlag (.subRegRev x y) s x (if (s.getV y).toNat ≥ (s.getV x).toNat then 1 else 0)
      (s.getV y - s.getV x) ∧
    decode (wordXYN 0x800E x y 0) = .ok (.shiftLeft x y) ∧
    WritesRegFlag (.shiftLeft x y) s x (if (s.getV x).getLsbD 7 then 1 else 0) (s.getV x <<< 1)

/-- R143: random-and, for every random byte. -/
def Obligations.RandomAndInstruction : Prop :=
  ∀ (x : Nibble) (nn rnd : Byte) (s : State),
    decode (wordXNN 0xC000 x nn) = .ok (.randomAnd x nn) ∧
    WritesReg (.randomAnd x nn) (s.present rnd) x (rnd &&& nn)

/-! ### Control flow -/

/-- R111, R112, R118: no-op, jump and jump-plus-v0; the sum of the last is exact. -/
def Obligations.NoOpAndJumpInstructions : Prop :=
  ∀ (nnn : Addr) (s : State),
    (nnn ≠ 0x0E0 → nnn ≠ 0x0EE → decode (wordNNN 0x0000 nnn) = .ok (.noOp nnn)) ∧
    WritesPc (.noOp nnn) s (s.pc + 2) ∧
    decode (wordNNN 0x1000 nnn) = .ok (.jump nnn) ∧ WritesPc (.jump nnn) s (nnn.setWidth 16) ∧
    decode (wordNNN 0xB000 nnn) = .ok (.jumpPlusV0 nnn) ∧
    WritesPc (.jumpPlusV0 nnn) s (nnn.setWidth 16 + (s.getV 0).setWidth 16) ∧
    (nnn.setWidth 16 + (s.getV 0).setWidth 16 : Word).toNat = nnn.toNat + (s.getV 0).toNat

/-- R114 to R117: the skips on registers and immediates. -/
def Obligations.SkipInstructions : Prop :=
  (∀ (x : Nibble) (nn : Byte) (s : State),
    decode (wordXNN 0x3000 x nn) = .ok (.skipEqImm x nn) ∧
    WritesPc (.skipEqImm x nn) s (if s.getV x = nn then s.pc + 4 else s.pc + 2) ∧
    decode (wordXNN 0x4000 x nn) = .ok (.skipNeqImm x nn) ∧
    WritesPc (.skipNeqImm x nn) s (if s.getV x ≠ nn then s.pc + 4 else s.pc + 2)) ∧
  (∀ (x y n : Nibble) (s : State),
    decode (wordXYN 0x5000 x y n) = .ok (.skipEqReg x y n) ∧
    WritesPc (.skipEqReg x y n) s (if s.getV x = s.getV y then s.pc + 4 else s.pc + 2) ∧
    decode (wordXYN 0x9000 x y n) = .ok (.skipNeqReg x y n) ∧
    WritesPc (.skipNeqReg x y n) s (if s.getV x ≠ s.getV y then s.pc + 4 else s.pc + 2))

/-- R113: call, and its stack overflow. -/
def Obligations.CallInstruction : Prop :=
  ∀ (nnn : Addr) (s : State),
    decode (wordNNN 0x2000 nnn) = .ok (.call nnn) ∧
    (s.sp ≠ 15 → ∃ t, exec (.call nnn) s = .next t ∧ t.pc = nnn.setWidth 16 ∧ t.sp.toNat = s.sp.toNat + 1 ∧
      (∀ j, t.getStack j = if j = s.sp then s.pc + 2 else s.getStack j) ∧ Frame { stack := true } s t) ∧
    (s.sp = 15 → exec (.call nnn) s = .next (faulted s (.memoryFault .stackOverflow 15)))

/-- R110: return, and its stack underflow. -/
def Obligations.ReturnInstruction : Prop :=
  decode 0x00EE = .ok .ret ∧ ∀ s : State,
    (s.sp ≠ 0 → ∃ t, exec .ret s = .next t ∧ t.pc = s.getStack (s.sp - 1) ∧ t.sp.toNat + 1 = s.sp.toNat ∧
      (∀ j, t.getStack j = s.getStack j) ∧ Frame { stack := true } s t) ∧
    (s.sp = 0 → exec .ret s = .next (faulted s (.memoryFault .stackUnderflow 0)))

/-- The source's property of R110 and R113: a call and the return that ends it restore SP and resume after the call,
whatever ran between them, provided SP and the call's slot are as the call left them. -/
def Obligations.CallThenReturnRestores : Prop :=
  ∀ (nnn : Addr) (s t u : State), s.sp ≠ 15 → exec (.call nnn) s = .next t →
    u.sp = t.sp → u.getStack s.sp = t.getStack s.sp →
    ∃ r, exec .ret u = .next r ∧ r.pc = s.pc + 2 ∧ r.sp = s.sp

/-! ### Index and memory -/

/-- R150, R151, R152: the instructions that write I. -/
def Obligations.IndexInstructions : Prop :=
  (∀ (nnn : Addr) (s : State),
    decode (wordNNN 0xA000 nnn) = .ok (.setIndex nnn) ∧ WritesIndex (.setIndex nnn) s (nnn.setWidth 16)) ∧
  (∀ (x : Nibble) (s : State),
    decode (wordX 0xF01E x) = .ok (.addToIndex x) ∧
    WritesIndex (.addToIndex x) s (s.i + (s.getV x).setWidth 16) ∧
    decode (wordX 0xF029 x) = .ok (.fontCharAddress x) ∧
    (∃ w : Word, w.toNat = (s.getV x).toNat * 5 ∧ WritesIndex (.fontCharAddress x) s w))

/-- R153: store-bcd writes three digits at I, I + 1, I + 2, or raises with nothing written. -/
def Obligations.StoreBcdInstruction : Prop :=
  ∀ (x : Nibble) (s : State), decode (wordX 0xF033 x) = .ok (.storeBcd x) ∧
    (MemoryCanonical s → s.i.toNat + 2 ≤ 4095 → ∃ t, exec (.storeBcd x) s = .next t ∧ t.pc = s.pc + 2 ∧
      (t.byteAt s.i.toNat).toNat = (s.getV x).toNat / 100 ∧
      (t.byteAt (s.i.toNat + 1)).toNat = (s.getV x).toNat / 10 % 10 ∧
      (t.byteAt (s.i.toNat + 2)).toNat = (s.getV x).toNat % 10 ∧
      (∀ a, a < s.i.toNat ∨ s.i.toNat + 2 < a → t.byteAt a = s.byteAt a) ∧ Frame { mem := true } s t) ∧
    (4095 < s.i.toNat + 2 →
      exec (.storeBcd x) s = .next (faulted s (.memoryFault .dataWrite (max s.i.toNat 4096))))

/-- R154: reg-dump writes V0..VX at I, …, I + X, or raises with nothing written. -/
def Obligations.RegDumpInstruction : Prop :=
  ∀ (x : Nibble) (s : State), decode (wordX 0xF055 x) = .ok (.regDump x) ∧
    (MemoryCanonical s → s.i.toNat + x.toNat ≤ 4095 → ∃ t, exec (.regDump x) s = .next t ∧ t.pc = s.pc + 2 ∧
      (∀ r : Nibble, r.toNat ≤ x.toNat → t.byteAt (s.i.toNat + r.toNat) = s.getV r) ∧
      (∀ a, a < s.i.toNat ∨ s.i.toNat + x.toNat < a → t.byteAt a = s.byteAt a) ∧ Frame { mem := true } s t) ∧
    (4095 < s.i.toNat + x.toNat →
      exec (.regDump x) s = .next (faulted s (.memoryFault .dataWrite (max s.i.toNat 4096))))

/-- R155: reg-load reads V0..VX from I, …, I + X, or raises with no register changed. -/
def Obligations.RegLoadInstruction : Prop :=
  ∀ (x : Nibble) (s : State), decode (wordX 0xF065 x) = .ok (.regLoad x) ∧
    (s.i.toNat + x.toNat ≤ 4095 → ∃ t, exec (.regLoad x) s = .next t ∧ t.pc = s.pc + 2 ∧
      (∀ r : Nibble, t.getV r = if r.toNat ≤ x.toNat then s.byteAt (s.i.toNat + r.toNat) else s.getV r) ∧
      Frame { v := true } s t) ∧
    (4095 < s.i.toNat + x.toNat →
      exec (.regLoad x) s = .next (faulted s (.memoryFault .dataRead (max s.i.toNat 4096))))

/-- From R64: what reg-dump stores is what the very next fetch reads, high byte from the lower-numbered register
(R53). -/
def Obligations.StoreSeenByNextFetch : Prop :=
  ∀ (x r : Nibble) (s t : State), MemoryCanonical s → s.i.toNat + x.toNat ≤ 4095 → r.toNat < x.toNat →
    s.pc.toNat + 2 = s.i.toNat + r.toNat → exec (.regDump x) s = .next t →
    fetch t = .ok (wordOfBytes (s.getV r) (s.getV (r + 1)))

/-- Two canonical memories that read the same at every address are the same list (the model's representation,
log 12). -/
def Obligations.CanonicalMemoriesAgree : Prop :=
  ∀ (c : Config) (m m' : Memory), m.wf c → m'.wf c → (∀ a, m.read c a = m'.read c a) → m = m'

/-! ### Display -/

/-- R165: clear-screen. -/
def Obligations.ClearScreenInstruction : Prop :=
  decode 0x00E0 = .ok .clearScreen ∧ ∀ s : State,
    ∃ t, exec .clearScreen s = .next t ∧ t.pc = s.pc + 2 ∧ (∀ p, t.pixel p = false) ∧
      t.io.out = s.io.out ++ [.render] ∧ Frame { display := true, out := true } s t

/-- From R166: draw-sprite completes when its rows are in memory, or has none, changing only VF and the display and
sending one Render; else it raises with nothing changed. -/
def Obligations.DrawSpriteCompletesOrRaises : Prop :=
  ∀ (x y n : Nibble) (s : State), decode (wordXYN 0xD000 x y n) = .ok (.drawSprite x y n) ∧
    (n = 0 ∨ s.i.toNat + n.toNat ≤ 4096 → ∃ t, exec (.drawSprite x y n) s = .next t ∧ t.pc = s.pc + 2 ∧
      (∀ r, r ≠ 15 → t.getV r = s.getV r) ∧ t.io.out = s.io.out ++ [.render] ∧
      Frame { v := true, display := true, out := true } s t) ∧
    (n ≠ 0 → 4096 < s.i.toNat + n.toNat →
      exec (.drawSprite x y n) s = .next (faulted s (.memoryFault .dataRead (max s.i.toNat 4096))))

/-- From R166, R167 and R169: on every grid a pixel flips exactly when an odd number of set bits of the rows lands on it,
counted from the old VX, VY and I; on a grid at least as large as a sprite, exactly when a set bit lands on it. -/
def Obligations.DrawSpriteFlipsItsPixels : Prop :=
  ∀ (x y n : Nibble) (s t : State), DisplayCanonical s → (n = 0 ∨ s.i.toNat + n.toNat ≤ 4096) →
    exec (.drawSprite x y n) s = .next t →
    (∀ p : Pixel, t.pixel p ≠ s.pixel p ↔ landings s x y n p % 2 = 1) ∧
    (8 ≤ s.cfg.cols → 15 ≤ s.cfg.rows → ∀ p : Pixel, t.pixel p ≠ s.pixel p ↔
      ∃ row < n.toNat, ∃ col < 8, (s.byteAt (s.i.toNat + row)).getLsbD (7 - col) = true ∧
        place s.cfg ((s.getV x).toNat + col) ((s.getV y).toNat + row) = some p)

/-- From R167: where a sprite bit lands, by the spec's decision D9 (log 5), and, an inference the spec marks as its own,
that on a grid at least as large as a sprite two bits of one sprite never land on the same pixel. -/
def Obligations.SpriteBitPlacement : Prop :=
  ∀ c : Config,
    (c.drawOob = .wrap → ∀ px py, place c px py = some ⟨px % c.cols, py % c.rows⟩) ∧
    (c.drawOob = .drop → ∀ px py, place c px py = if px < c.cols ∧ py < c.rows then some ⟨px, py⟩ else none) ∧
    (8 ≤ c.cols → 15 ≤ c.rows → ∀ (vx vy col col' row row' : Nat) (p : Pixel), col < 8 → col' < 8 → row < 15 →
      row' < 15 → place c (vx + col) (vy + row) = some p → place c (vx + col') (vy + row') = some p →
      col = col' ∧ row = row')

/-- From R168. Mode `last`: VF stays when no set bit is placed; else, with (row, col) the last set and placed bit in row
order, then column order, and p its pixel, VF is 1 exactly when p ends unset. Mode `or`: VF is 1 exactly when some toggle
turns a pixel off, which is when the bits landing on it and its old value are two or more; on a grid at least as large as
a sprite, when some pixel was turned off. The modes are the spec's decision D8 (log 5). -/
def Obligations.DrawSpriteFlagModes : Prop :=
  ∀ (x y n : Nibble) (s t : State), (n = 0 ∨ s.i.toNat + n.toNat ≤ 4096) → exec (.drawSprite x y n) s = .next t →
    (s.cfg.drawVf = .last →
      ((∀ row < n.toNat, ∀ col < 8, lands s x y row col = none) → t.getV 15 = s.getV 15) ∧
      (∀ row < n.toNat, ∀ col < 8, ∀ p, lands s x y row col = some p →
        (∀ row' < n.toNat, ∀ col' < 8, bitBefore row col row' col' → lands s x y row' col' = none) →
        t.getV 15 = if t.pixel p = true then 0 else 1)) ∧
    (s.cfg.drawVf = .or → DisplayCanonical s →
      ((∃ p, 2 ≤ landings s x y n p + (s.pixel p).toNat) → t.getV 15 = 1) ∧
      ((∀ p, landings s x y n p + (s.pixel p).toNat < 2) → t.getV 15 = 0) ∧
      (8 ≤ s.cfg.cols → 15 ≤ s.cfg.rows →
        ((∃ p, s.pixel p = true ∧ t.pixel p = false) → t.getV 15 = 1) ∧
        ((∀ p, s.pixel p = true → t.pixel p = true) → t.getV 15 = 0)))

/-- From R170: the same sprite drawn twice at the same place restores the display, in every mode, on every grid; and
on a display that was clear, with some bit toggled on a grid at least as large as a sprite, the second draw leaves
VF = 1. -/
def Obligations.DrawSpriteTwiceRestores : Prop :=
  ∀ (x y n : Nibble) (s t u w : State), DisplayCanonical s → (n = 0 ∨ s.i.toNat + n.toNat ≤ 4096) →
    exec (.drawSprite x y n) s = .next t →
    u.display = t.display → u.cfg = s.cfg → u.i = s.i → u.getV x = s.getV x → u.getV y = s.getV y →
    (∀ a, u.byteAt a = s.byteAt a) → exec (.drawSprite x y n) u = .next w →
    (∀ p, w.pixel p = s.pixel p) ∧ w.display = s.display ∧
    ((∀ p, s.pixel p = false) → 8 ≤ s.cfg.cols → 15 ≤ s.cfg.rows → s.spriteAt x y n ≠ [] → w.getV 15 = 1)

/-! ### Keyboard and timers -/

/-- R180, R181: the key skips, and their key_index fault. -/
def Obligations.KeySkipInstructions : Prop :=
  ∀ (x : Nibble) (s : State),
    decode (wordX 0xE09E x) = .ok (.skipIfKeyPressed x) ∧
    decode (wordX 0xE0A1 x) = .ok (.skipIfKeyNotPressed x) ∧
    (∀ k : Nibble, (s.getV x).toNat = k.toNat →
      WritesPc (.skipIfKeyPressed x) s (if s.isPressed k = true then s.pc + 4 else s.pc + 2) ∧
      WritesPc (.skipIfKeyNotPressed x) s (if s.isPressed k = true then s.pc + 2 else s.pc + 4)) ∧
    ((s.getV x).toNat > 15 →
      exec (.skipIfKeyPressed x) s = .next (faulted s (.memoryFault .keyIndex (s.getV x).toNat)) ∧
      exec (.skipIfKeyNotPressed x) s = .next (faulted s (.memoryFault .keyIndex (s.getV x).toNat)))

/-- R183, R184, and of R185 what the instruction itself does. -/
def Obligations.TimerInstructions : Prop :=
  ∀ (x : Nibble) (s : State),
    decode (wordX 0xF007 x) = .ok (.getDelayTimer x) ∧ WritesReg (.getDelayTimer x) s x s.dt ∧
    decode (wordX 0xF015 x) = .ok (.setDelayTimer x) ∧
    (∃ t, exec (.setDelayTimer x) s = .next t ∧ t.pc = s.pc + 2 ∧ t.dt = s.getV x ∧ Frame { dt := true } s t) ∧
    decode (wordX 0xF018 x) = .ok (.setSoundTimer x) ∧
    (∃ t, exec (.setSoundTimer x) s = .next t ∧ t.pc = s.pc + 2 ∧ t.st = s.getV x ∧ Frame { st := true } s t)

/-- R182: wait-key halts with PC already past it, whatever keys are down; cycles, ticks and key releases leave the wait,
ticks go on counting and sounding; the first press ends it and the second writes no register; reset cancels it. -/
def Obligations.WaitKeyInstruction : Prop :=
  ∀ (x : Nibble) (s : State), decode (wordX 0xF00A x) = .ok (.waitKey x) ∧
    ∃ t, exec (.waitKey x) s = .next t ∧ t.pc = s.pc + 2 ∧ t.halt = true ∧ t.waitX = x ∧ Frame { wait := true } s t ∧
      (s.fault = none →
        (∀ rnd, deliver (.cycle rnd) t = .next (t.present rnd)) ∧
        (∀ k, ∃ u, deliver (.keyRelease k) t = .next u ∧ u.halt = true ∧ u.waitX = x ∧ u.v = t.v ∧ u.pc = t.pc) ∧
        (∃ u, deliver .tick t = .next u ∧ u.halt = true ∧ u.waitX = x ∧ u.dt.toNat = t.dt.toNat - 1 ∧
          u.st.toNat = t.st.toNat - 1 ∧
          u.io.out = t.io.out ++ [if u.st.toNat > 0 then .soundOn else .soundOff]) ∧
        (∀ k, ∃ u, deliver (.keyPress k) t = .next u ∧ u.halt = false ∧ u.isPressed k = true ∧ u.pc = t.pc ∧
          (∀ r, u.getV r = if r = x then k.setWidth 8 else t.getV r) ∧
          ∀ k', ∃ w, deliver (.keyPress k') u = .next w ∧ w.v = u.v ∧ w.halt = false ∧ w.isPressed k' = true) ∧
        (∃ u, deliver .reset t = .next u ∧ u.halt = false))

/-! ### Whole-machine rules -/

/-- From R21, R29 to R36, R55 and R171: an instruction that completes changes nothing but PC and the pieces its row names. -/
def Obligations.FrameOfEveryInstruction : Prop :=
  ∀ (i : Instr) (s t : State), s.fault = none → exec i s = .next t → t.fault = none → Frame (touches i) s t

/-- R21, the column "writes": no other register changes. -/
def Obligations.RegisterWriteTable : Prop :=
  ∀ (i : Instr) (s t : State) (r : Nibble), exec i s = .next t → writesReg i r = false → t.getV r = s.getV r

/-- R21, the column "reads": a register an instruction neither reads nor writes can hold anything without changing what
the instruction does. -/
def Obligations.RegisterReadTable : Prop :=
  ∀ (i : Instr) (s : State) (r : Nibble) (b : Byte), readsReg i r = false → writesReg i r = false →
    exec i (s.setV r b) = mapNext (fun t => t.setV r b) (exec i s)

/-- Every step keeps memory in canonical form: addresses in 0..4095, rising, no cell equal to its reset contents (the
form is the model's representation, log 12). -/
def Obligations.MemoryCanonicalKept : Prop :=
  ∀ s t : State, MemoryCanonical s → step s = .next t → MemoryCanonical t

/-- From R42: every step keeps every lit pixel on the grid, each pixel 0 or 1 (the list is the model's representation,
log 13). -/
def Obligations.DisplayCanonicalKept : Prop :=
  ∀ s t : State, DisplayCanonical s → step s = .next t → DisplayCanonical t

/-- From R25 and R31: every step keeps PC at most 0x10FE and every live stack entry at most 0x1000, and the last stack
slot is never written. -/
def Obligations.PcAndStackBoundsKept : Prop :=
  (∀ s t : State, PcBounded s → step s = .next t → PcBounded t) ∧
  (∀ s t : State, TopSlotUnused s → step s = .next t → TopSlotUnused t)

/-- From R231 to R235: the latch only ever records an exception those rules describe, with a value in their range. -/
def Obligations.LatchLegalKept : Prop :=
  ∀ s t : State, PcBounded s → LatchLegal s → step s = .next t → LatchLegal t

/-- The invariants hold after reset. -/
def Obligations.InvariantsAtReset : Prop := Inv State.reset

/-- R6: the parameters are fixed for the machine: no step changes them (they stand in the state by the model's choice,
log 1). -/
def Obligations.ParametersNeverChange : Prop :=
  ∀ s t : State, step s = .next t → t.cfg = s.cfg

/-- From R36: a key's state changes only by a key event for that key, press making it true and release false. -/
def Obligations.KeysChangeOnlyByKeyEvents : Prop :=
  ∀ (s t : State) (k : Nibble), step s = .next t → t.isPressed k ≠ s.isPressed k →
    ((nextEvent s).1 = .keyPress k ∧ t.isPressed k = true) ∨ ((nextEvent s).1 = .keyRelease k ∧ t.isPressed k = false)

/-- From R27, R38 and R243: only a wait-key sets `halt`, only a key press or reset clears it; and the latch, once set,
keeps its exception until reset. -/
def Obligations.HaltAndLatchChangeOnlyByTheirEvents : Prop :=
  ∀ s t : State, step s = .next t →
    (s.halt = false → t.halt = true →
      ∃ rnd w x, (nextEvent s).1 = .cycle rnd ∧ fetch s = .ok w ∧ decode w = .ok (.waitKey x)) ∧
    (s.halt = true → t.halt = false → (∃ k, (nextEvent s).1 = .keyPress k) ∨ (nextEvent s).1 = .reset) ∧
    (∀ e, s.fault = some e → t.fault ≠ some e → (nextEvent s).1 = .reset)

/-- From R14 and R206: a step sends at most one output, after everything sent before. -/
def Obligations.OutputsOnlyAppend : Prop :=
  ∀ s t : State, step s = .next t → ∃ l : List Output, t.io.out = s.io.out ++ l ∧ l.length ≤ 1

/-- From R275: in a finished state a cycle changes nothing, and ticks and key events change only the timers and the
keys, and leave it finished. -/
def Obligations.FinishedRunStays : Prop :=
  ∀ s t : State, finished s → step s = .next t → (nextEvent s).1 ≠ .reset →
    (∀ bytes, (nextEvent s).1 ≠ .load bytes) →
    finished t ∧ t = { s with dt := t.dt, st := t.st, keys := t.keys, io := t.io } ∧
    ((∃ rnd, (nextEvent s).1 = .cycle rnd) → t = { s with io := t.io } ∧ t.io.out = s.io.out)

/-- From R208 and R209: running as many steps as events wait delivers exactly those events, oldest first (how
the model takes events is log 6). -/
def Obligations.WaitingEventsRunInOrder : Prop :=
  ∀ (es : List Event) (s : State), s.io.events = es →
    ∃ t, core.run es.length s = .next t ∧
      deliverAll es { s with io := { s.io with events := [] } } = .next t
end

