-- ==== Sys2Proof/Laws/Decode.lean ====
section
/-! SUPPORT. The fields of a word put together from its parts (R81), for words of the formats of R82 to R84, and the
word put together from its fields. -/

namespace Sys2Proof

section Format

variable (g x y n : Nibble) (nn : Byte) (nnn : Addr)

@[simp] theorem groupOf_nnn : groupOf (packNNN g nnn) = g := by
  ext k hk
  simp only [packNNN, groupOf, BitVec.getElem_extractLsb', BitVec.getLsbD_append]
  rw [if_neg (by omega)]
  simp [hk]

@[simp] theorem fieldNNN_nnn : fieldNNN (packNNN g nnn) = nnn := by
  ext k hk
  simp only [packNNN, fieldNNN, BitVec.getElem_extractLsb', BitVec.getLsbD_append]
  rw [if_pos (by omega)]
  simp [hk]

@[simp] theorem groupOf_xnn : groupOf (packXNN g x nn) = g := by
  ext k hk
  simp only [packXNN, groupOf, BitVec.getElem_extractLsb', BitVec.getLsbD_append]
  rw [if_neg (by omega), if_neg (by omega)]
  simp [hk, show 12 + k - 8 - 4 = k by omega]

@[simp] theorem fieldX_xnn : fieldX (packXNN g x nn) = x := by
  ext k hk
  simp only [packXNN, fieldX, BitVec.getElem_extractLsb', BitVec.getLsbD_append]
  rw [if_neg (by omega), if_pos (by omega)]
  simp [hk]

@[simp] theorem fieldNN_xnn : fieldNN (packXNN g x nn) = nn := by
  ext k hk
  simp only [packXNN, fieldNN, BitVec.getElem_extractLsb', BitVec.getLsbD_append]
  rw [if_pos (by omega)]
  simp [hk]

/-- A word of format XYN is one of format XNN whose NN is Y and N. -/
theorem packXYN_eq : packXYN g x y n = packXNN g x (y ++ n) := rfl

@[simp] theorem groupOf_xyn : groupOf (packXYN g x y n) = g := groupOf_xnn g x (y ++ n)

@[simp] theorem fieldX_xyn : fieldX (packXYN g x y n) = x := fieldX_xnn g x (y ++ n)

@[simp] theorem fieldY_xyn : fieldY (packXYN g x y n) = y := by
  ext k hk
  simp only [packXYN, fieldY, BitVec.getElem_extractLsb', BitVec.getLsbD_append]
  rw [if_pos (by omega), if_neg (by omega)]
  simp [hk]

@[simp] theorem fieldN_xyn : fieldN (packXYN g x y n) = n := by
  ext k hk
  simp only [packXYN, fieldN, BitVec.getElem_extractLsb', BitVec.getLsbD_append]
  rw [if_pos (by omega), if_pos (by omega)]
  simp [hk]

end Format

/-- A word is its group and its address field. -/
theorem word_eq_nnn (w : Word) : packNNN (groupOf w) (fieldNNN w) = w := by
  change (groupOf w ++ fieldNNN w : BitVec 16) = w
  ext k hk
  simp only [groupOf, fieldNNN, BitVec.getElem_append, BitVec.getElem_extractLsb']
  split
  · simp [hk]
  · rw [show 12 + (k - 12) = k by omega]; simp [hk]

/-- A word is its group, X and NN. -/
theorem word_eq_xnn (w : Word) : packXNN (groupOf w) (fieldX w) (fieldNN w) = w := by
  change (groupOf w ++ fieldX w ++ fieldNN w : BitVec 16) = w
  ext k hk
  simp only [groupOf, fieldX, fieldNN, BitVec.getElem_append, BitVec.getElem_extractLsb']
  split
  · simp [hk]
  · split
    · rw [show 8 + (k - 8) = k by omega]; simp [hk]
    · rw [show 12 + (k - 8 - 4) = k by omega]; simp [hk]

/-- NN is Y and N (R81: the fields overlap). -/
theorem fieldNN_eq (w : Word) : fieldY w ++ fieldN w = fieldNN w := by
  ext k hk
  simp only [fieldY, fieldN, fieldNN, BitVec.getElem_append, BitVec.getElem_extractLsb']
  split
  · simp
  · rw [show 4 + (k - 4) = k by omega]; simp

/-- A word is its group, X, Y and N. -/
theorem word_eq_xyn (w : Word) : packXYN (groupOf w) (fieldX w) (fieldY w) (fieldN w) = w := by
  have h := word_eq_xnn w
  rw [← fieldNN_eq] at h
  exact h

/-- A word is its two bytes, high byte first (R52). -/
theorem wordOfBytes_bytes (w : Word) : wordOfBytes (highByte w) (lowByte w) = w := by
  change (highByte w ++ lowByte w : BitVec 16) = w
  ext k hk
  simp only [highByte, lowByte, BitVec.getElem_append, BitVec.getElem_extractLsb']
  split
  · simp [BitVec.getLsbD_eq_getElem (show k < 16 by omega)]
  · simp [show 8 + (k - 8) = k by omega, BitVec.getLsbD_eq_getElem (show k < 16 by omega)]

/-- The value of a word made of two bytes (R52). -/
theorem wordOfBytes_toNat (hi lo : Byte) : (wordOfBytes hi lo).toNat = hi.toNat * 256 + lo.toNat := by
  have := lo.isLt
  simp only [wordOfBytes, BitVec.toNat_append, Nat.shiftLeft_eq]
  rw [Nat.mul_comm, ← Nat.two_pow_add_eq_or_of_lt this]

/-- What decodeTableWord reads from a 16-bit word is what the decoder reads from it. -/
theorem decodeTableWord_eq (w : Word) :
    decodeTableWord 16 w.toNat = (match decode w with | .ok i => some i | .error _ => none) := by
  have hw : BitVec.ofNat 16 (w.toNat % 2 ^ 16) = w := by
    rw [Nat.mod_eq_of_lt w.isLt, BitVec.ofNat_toNat, BitVec.setWidth_eq]
  simp only [decodeTableWord, hw, decodeBytes, wordOfBytes_bytes]
  cases decode w <;> rfl

/-- A refused word is refused under its own name (R93). -/
theorem decode_error {w : Word} {r : Reject} (h : decode w = .error r) : r = .unsupported w := by
  simp only [decode, decodeGroup8, decodeGroupE, decodeGroupF] at h
  repeat' split at h
  all_goals first | (injection h with h; exact h.symm) | nomatch h

end Sys2Proof
end

