-- ==== Sys2Proof/Laws/Memory.lean ====
section
/-! SUPPORT. What one read gives after one write or a run of writes, and that every memory operation keeps the canonical
form. -/

namespace Sys2Proof.Machine.Memory

variable {c : Config}

/-- The cells after the first stand above it. -/
theorem wf_tail {cell : Host.Cell} {m : Memory} (h : wf c (cell :: m)) : wf c m :=
  ⟨(List.pairwise_cons.mp h.1).2, fun p hp => h.2 p (List.mem_cons_of_mem _ hp)⟩

/-- Below a canonical memory's first address nothing is listed. -/
theorem read_of_lt {m : Memory} {a : Nat} (h : ∀ p ∈ m, a < p.1) : m.read c a = initialByte c a := by
  induction m with
  | nil => rfl
  | cons cell m ih =>
    have h1 := h cell (by simp)
    simp only [read]
    rw [if_neg (by omega)]
    exact ih fun p hp => h p (List.mem_cons_of_mem _ hp)

/-- The cells of a memory after a write: the cell written, or old ones at other addresses. -/
theorem mem_write {m : Memory} {a : Nat} {b : Byte} {p : Host.Cell} (hp : p ∈ m.write c a b) :
    (p = (a, b) ∧ b ≠ initialByte c a) ∨ p ∈ m := by
  induction m with
  | nil =>
    simp only [write] at hp
    split at hp <;> simp_all
  | cons cell m ih =>
    simp only [write] at hp
    split at hp
    · split at hp <;> simp_all
    · split at hp
      · split at hp <;> simp_all
        rcases hp with rfl | hp <;> simp_all
      · rcases List.mem_cons.mp hp with rfl | hp
        · simp
        · rcases ih hp with h | h <;> simp_all

/-- Writing a byte keeps the canonical form. -/
theorem write_wf {m : Memory} {a : Nat} (b : Byte) (h : wf c m) (ha : a < memSize) : wf c (m.write c a b) := by
  refine ⟨?_, fun p hp => ?_⟩
  · induction m with
    | nil => simp only [write]; split <;> simp
    | cons cell m ih =>
      have ht := wf_tail h
      have hc := List.pairwise_cons.mp h.1
      simp only [write]
      split
      · split
        · exact h.1
        · refine List.pairwise_cons.mpr ⟨fun p hp => ?_, h.1⟩
          rcases List.mem_cons.mp hp with rfl | hp
          · assumption
          · have := hc.1 p hp; simp only; omega
      · split
        · split
          · exact hc.2
          · refine List.pairwise_cons.mpr ⟨fun p hp => ?_, hc.2⟩
            have := hc.1 p hp; simp only; omega
        · refine List.pairwise_cons.mpr ⟨fun p hp => ?_, ih ht⟩
          rcases mem_write hp with ⟨rfl, -⟩ | hp
          · simp only; omega
          · exact hc.1 p hp
  · rcases mem_write hp with ⟨rfl, hb⟩ | hp
    · exact ⟨ha, hb⟩
    · exact h.2 p hp

/-- A read at another address does not see a write. -/
theorem read_write_other (m : Memory) {a x : Nat} (b : Byte) (hx : x ≠ a) :
    (m.write c a b).read c x = m.read c x := by
  induction m with
  | nil =>
    simp only [write]
    split
    · rfl
    · simp only [read]; rw [if_neg (by omega)]
  | cons cell m ih =>
    simp only [write]
    split
    · split
      · rfl
      · simp only [read]; rw [if_neg (by omega)]
    · split
      · split <;> (simp only [read]; rw [if_neg (by omega)])
        rw [if_neg (by omega)]
      · simp only [read, ih]

/-- A read sees the write at its own address. -/
theorem read_write_same {m : Memory} (a : Nat) (b : Byte) (h : wf c m) : (m.write c a b).read c a = b := by
  induction m with
  | nil =>
    simp only [write]
    split
    · simp_all [read]
    · simp [read]
  | cons cell m ih =>
    have hc := List.pairwise_cons.mp h.1
    simp only [write]
    split
    · split
      · rename_i hlt hb
        rw [hb]
        refine read_of_lt fun p hp => ?_
        rcases List.mem_cons.mp hp with rfl | hp
        · exact hlt
        · exact Nat.lt_trans hlt (hc.1 p hp)
      · simp [read]
    · split
      · rename_i ha
        split
        · rename_i hb
          rw [hb]
          exact read_of_lt fun p hp => by have := hc.1 p hp; omega
        · simp [read]
      · rename_i hne
        simp only [read]
        rw [if_neg (fun h => hne h.symm), ih (wf_tail h)]

/-- One read after one write. -/
theorem read_write {m : Memory} (a x : Nat) (b : Byte) (h : wf c m) :
    (m.write c a b).read c x = if x = a then b else m.read c x := by
  split
  · rename_i hx; subst hx; exact read_write_same x b h
  · rename_i hx; exact read_write_other m b hx

/-- Writing a run of bytes inside memory keeps the canonical form. -/
theorem writeBytes_wf {m : Memory} {a : Nat} (bs : List Byte) (h : wf c m) (ha : a + bs.length ≤ memSize) :
    wf c (m.writeBytes c a bs) := by
  induction bs generalizing m a with
  | nil => exact h
  | cons b bs ih =>
    simp only [List.length_cons] at ha
    exact ih (write_wf b h (by omega)) (by omega)

/-- One read after a run of writes inside memory: the byte of the run that stands there, or the old one. -/
theorem read_writeBytes {m : Memory} {a : Nat} (bs : List Byte) (x : Nat) (h : wf c m)
    (ha : a + bs.length ≤ memSize) :
    (m.writeBytes c a bs).read c x
      = if hx : a ≤ x ∧ x < a + bs.length then bs[x - a] else m.read c x := by
  induction bs generalizing m a with
  | nil => simp only [writeBytes, List.length_nil]; rw [dif_neg (by omega)]
  | cons b bs ih =>
    simp only [List.length_cons] at ha
    simp only [writeBytes]
    rw [ih (write_wf b h (by omega)) (by omega), read_write a x b h]
    by_cases hx : x = a
    · subst hx
      rw [dif_neg (by omega), if_pos rfl, dif_pos (by simp)]
      simp
    · by_cases hr : a + 1 ≤ x ∧ x < a + 1 + bs.length
      · rw [dif_pos hr, dif_pos (by simp only [List.length_cons]; omega)]
        have : x - a = (x - (a + 1)) + 1 := by omega
        simp [this]
      · rw [dif_neg hr, if_neg hx, dif_neg (by simp only [List.length_cons]; omega)]

/-- A read outside a run of writes gives the old byte, in any memory. -/
theorem read_writeBytes_outside (m : Memory) {a x : Nat} (bs : List Byte) (hx : x < a ∨ a + bs.length ≤ x) :
    (m.writeBytes c a bs).read c x = m.read c x := by
  induction bs generalizing m a with
  | nil => rfl
  | cons b bs ih =>
    simp only [List.length_cons] at hx
    simp only [writeBytes]
    rw [ih _ (by omega), read_write_other m b (by omega)]

@[simp] theorem length_readBytes (m : Memory) (a n : Nat) : (m.readBytes c a n).length = n := by simp [readBytes]

@[simp] theorem getElem_readBytes (m : Memory) (a n k : Nat) (hk : k < (m.readBytes c a n).length) :
    (m.readBytes c a n)[k] = m.read c (a + k) := by simp [readBytes]

/-- Nothing listed is canonical. -/
theorem wf_nil : wf c [] := ⟨List.Pairwise.nil, by simp⟩

/-- Memory after `load` of a byte string that fits is canonical. -/
theorem loadedMemory_wf {bytes : List Byte} (h : bytes.length ≤ romMax) : wf c (loadedMemory c bytes) :=
  writeBytes_wf bytes wf_nil (by simp only [programOrigin, memSize, romMax] at *; omega)

end Sys2Proof.Machine.Memory
end

