-- ==== Sys2Proof/Laws/Raster.lean ====
section
/-! SUPPORT. What one pixel reads as after a toggle and after a sprite, and that toggling keeps the canonical form. -/

namespace Sys2Proof.Machine

namespace Raster

theorem lit_eq (d : Raster) (p : Pixel) : d.lit p = decide (p ∈ d) := by simp [lit]

/-- Raster order is total on distinct pixels. -/
theorem before_of_not {p q : Pixel} (hne : p ≠ q) (h : ¬ p.before q) : q.before p := by
  obtain ⟨pc, pr⟩ := p
  obtain ⟨qc, qr⟩ := q
  simp only [ne_eq, Pixel.mk.injEq, Pixel.before] at *
  omega

theorem before_trans {p q r : Pixel} (h : p.before q) (h' : q.before r) : p.before r := by
  simp only [Pixel.before] at *
  omega

theorem before_irrefl (p : Pixel) : ¬ p.before p := by
  simp [Pixel.before]

/-- The lit pixels after a toggle: in an ordered buffer the toggled one changes side and every other one stays. -/
theorem mem_toggle {d : Raster} (p q : Pixel) (h : d.Pairwise Pixel.before) :
    q ∈ d.toggle p ↔ (if q = p then p ∉ d else q ∈ d) := by
  induction d with
  | nil => simp [toggle]
  | cons e d ih =>
    have hc := List.pairwise_cons.mp h
    have notIn : ∀ r : Pixel, r.before e → r ∉ d := fun r hr hm =>
      before_irrefl r (before_trans hr (hc.1 r hm))
    have he : e ∉ d := fun hm => before_irrefl e (hc.1 e hm)
    simp only [toggle]
    split
    · rename_i hpe
      subst hpe
      split
      · rename_i hqp; subst hqp; simp [he]
      · rename_i hqp; simp [hqp]
    · rename_i hpe
      split
      · rename_i hb
        split
        · rename_i hqp; subst hqp; simp [hpe, notIn _ hb]
        · rename_i hqp; simp [hqp]
      · split
        · rename_i hqp
          subst hqp
          have := ih hc.2
          simp only [if_true] at this
          simp [hpe, this]
        · rename_i hqp
          have := ih hc.2
          rw [if_neg hqp] at this
          simp [this]

/-- One pixel after one toggle (R11). -/
theorem lit_toggle {d : Raster} (p q : Pixel) (h : d.Pairwise Pixel.before) :
    (d.toggle p).lit q = if q = p then !d.lit q else d.lit q := by
  simp only [lit_eq, mem_toggle p q h]
  split
  · rename_i hq; subst hq; simp
  · rfl

/-- A pixel of a toggled buffer is the toggled one or an old one. -/
theorem mem_of_mem_toggle {d : Raster} {p q : Pixel} (h : q ∈ d.toggle p) : q = p ∨ q ∈ d := by
  induction d with
  | nil => simpa [toggle] using h
  | cons e d ih =>
    simp only [toggle] at h
    split at h
    · right; exact List.mem_cons_of_mem _ h
    · split at h
      · simpa using h
      · rcases List.mem_cons.mp h with rfl | h
        · simp
        · rcases ih h with h | h <;> simp [h]

/-- Toggling keeps raster order. -/
theorem toggle_ordered {d : Raster} (p : Pixel) (h : d.Pairwise Pixel.before) :
    (d.toggle p).Pairwise Pixel.before := by
  induction d with
  | nil => simp [toggle]
  | cons e d ih =>
    have hc := List.pairwise_cons.mp h
    simp only [toggle]
    split
    · exact hc.2
    · rename_i hpe
      split
      · rename_i hb
        refine List.pairwise_cons.mpr ⟨fun q hq => ?_, h⟩
        rcases List.mem_cons.mp hq with rfl | hq
        · exact hb
        · exact before_trans hb (hc.1 q hq)
      · rename_i hb
        refine List.pairwise_cons.mpr ⟨fun q hq => ?_, ih hc.2⟩
        rcases mem_of_mem_toggle hq with rfl | hq
        · exact before_of_not hpe hb
        · exact hc.1 q hq

/-- Toggling a pixel of the grid keeps the canonical form. -/
theorem toggle_wf {c : Config} {d : Raster} {p : Pixel} (h : wf c d) (hp : p.col < c.cols ∧ p.row < c.rows) :
    wf c (d.toggle p) :=
  ⟨toggle_ordered p h.1, fun q hq => (mem_of_mem_toggle hq).elim (fun e => e ▸ hp) (h.2 q)⟩

/-- Nothing lit is canonical. -/
theorem wf_nil {c : Config} : wf c [] := ⟨List.Pairwise.nil, by simp⟩

end Raster

/-! ### Sprites -/

/-- A bit lands on the grid (R167). -/
theorem place_onGrid {c : Config} {px py : Nat} {p : Pixel} (hc : c.wf) (h : place c px py = some p) :
    p.col < c.cols ∧ p.row < c.rows := by
  simp only [place] at h
  split at h
  · simp only [Option.some.injEq] at h
    subst h
    exact ⟨Nat.mod_lt _ hc.1, Nat.mod_lt _ hc.2⟩
  · split at h
    · simp only [Option.some.injEq] at h
      subst h
      assumption
    · simp at h

/-- The pixels one sprite byte toggles, named by its set bits. -/
theorem mem_spriteRow {c : Config} {b : Byte} {vx py : Nat} {p : Pixel} :
    p ∈ spriteRow c b vx py ↔ ∃ col < 8, b.getMsbD col = true ∧ place c (vx + col) py = some p := by
  simp [spriteRow, List.mem_filterMap, Option.ite_none_right_eq_some]

/-- The pixels a sprite toggles, named by row and column. -/
theorem mem_spritePixels {c : Config} {vx : Nat} {bs : List Byte} {py : Nat} {p : Pixel} :
    p ∈ spritePixels c vx py bs ↔
      ∃ row, ∃ h : row < bs.length, ∃ col < 8,
        bs[row].getMsbD col = true ∧ place c (vx + col) (py + row) = some p := by
  induction bs generalizing py with
  | nil => simp [spritePixels]
  | cons b bs ih =>
    simp only [spritePixels, List.mem_append, mem_spriteRow, ih]
    constructor
    · rintro (⟨col, h, hb, hp⟩ | ⟨row, hr, col, h, hb, hp⟩)
      · exact ⟨0, by simp, col, h, by simpa using hb, by simpa using hp⟩
      · refine ⟨row + 1, by simp only [List.length_cons]; omega, col, h, by simpa using hb, ?_⟩
        rw [← hp]; congr 1; omega
    · rintro ⟨row, hr, col, h, hb, hp⟩
      cases row with
      | zero => exact .inl ⟨col, h, by simpa using hb, by simpa using hp⟩
      | succ row =>
        refine .inr ⟨row, by simpa using hr, col, h, by simpa using hb, ?_⟩
        rw [← hp]; congr 1; omega

/-- The pixels of a sprite given by a run of bytes, row by row. -/
theorem spritePixels_map (c : Config) (vx py n : Nat) (f : Nat → Byte) :
    spritePixels c vx py ((List.range n).map f)
      = (List.range n).flatMap fun row => spriteRow c (f row) vx (py + row) := by
  induction n generalizing py f with
  | zero => rfl
  | succ n ih =>
    rw [List.range_succ_eq_map, List.map_cons, List.map_map, List.flatMap_cons, List.flatMap_map]
    simp only [spritePixels, ih, Function.comp_def, Nat.add_zero, Nat.add_assoc, Nat.add_comm 1]

/-- Every pixel a sprite toggles is on the grid. -/
theorem spritePixels_onGrid {c : Config} {vx py : Nat} {bs : List Byte} (hc : c.wf) :
    ∀ p ∈ spritePixels c vx py bs, p.col < c.cols ∧ p.row < c.rows := by
  intro p hp
  obtain ⟨_, _, _, _, _, h⟩ := mem_spritePixels.mp hp
  exact place_onGrid hc h

/-- The display part of a sprite's toggling does not depend on VF or on the flag mode. -/
theorem plotAll_fst (mode : DrawVfMode) (d : Raster) (vf : Byte) (ps : List Pixel) :
    (plotAll mode d vf ps).1 = ps.foldl Raster.toggle d := by
  simp only [plotAll]
  generalize drawFlagStart mode vf = f
  induction ps generalizing d f with
  | nil => rfl
  | cons p ps ih => exact ih _ _

/-- A run of toggles keeps the canonical form. -/
theorem foldl_toggle_wf {c : Config} {d : Raster} {ps : List Pixel} (h : Raster.wf c d)
    (hp : ∀ p ∈ ps, p.col < c.cols ∧ p.row < c.rows) : Raster.wf c (ps.foldl Raster.toggle d) := by
  induction ps generalizing d with
  | nil => exact h
  | cons p ps ih =>
    exact ih (Raster.toggle_wf h (hp p (by simp))) fun q hq => hp q (List.mem_cons_of_mem _ hq)

/-- One pixel after a run of toggles: flipped once for each time it occurs (R11, R170). -/
theorem lit_foldl_toggle {d : Raster} (ps : List Pixel) (q : Pixel) (h : d.Pairwise Pixel.before) :
    (ps.foldl Raster.toggle d).lit q = (d.lit q ^^ decide (ps.count q % 2 = 1)) := by
  induction ps generalizing d with
  | nil => simp
  | cons p ps ih =>
    rw [List.foldl_cons, ih (Raster.toggle_ordered p h), Raster.lit_toggle p q h, List.count_cons]
    by_cases hq : p = q
    · subst hq
      rcases Nat.mod_two_eq_zero_or_one (ps.count p) with h1 | h1 <;> cases d.lit p <;>
        simp [h1, Nat.add_mod]
    · have hq' : q ≠ p := fun h => hq h.symm
      simp [hq, hq']

/-- VF after a sprite in `last` mode: the transition of the last toggled bit, or the old value if none was toggled
(R168). -/
theorem plotAll_last (d : Raster) (vf : Byte) (ps : List Pixel) (p : Pixel) :
    (plotAll .last d vf []).2 = vf ∧
      (plotAll .last d vf (ps ++ [p])).2 = flagByte (!((ps ++ [p]).foldl Raster.toggle d).lit p) := by
  refine ⟨rfl, ?_⟩
  have h := plotAll_fst .last d vf ps
  simp only [plotAll] at *
  rw [List.foldl_append, List.foldl_append, List.foldl_cons, List.foldl_nil, ← h]
  rfl

end Sys2Proof.Machine
end

