-- ==== Sys2Proof/Laws/State.lean ====
section
/-! SUPPORT. One lemma for each field and each update of the state, and for each accessor and each update that does not
touch what it reads; all true by rfl. The last section says what each read gives after the write of the same piece. -/

namespace Sys2Proof.Machine.State

variable (s : State)

/-! ### setV -/

@[simp] theorem setV_v (r : Nibble) (b : Byte) : (s.setV r b).v = s.v.set r.toNat b r.isLt := rfl
@[simp] theorem setV_i (r : Nibble) (b : Byte) : (s.setV r b).i = s.i := rfl
@[simp] theorem setV_pc (r : Nibble) (b : Byte) : (s.setV r b).pc = s.pc := rfl
@[simp] theorem setV_sp (r : Nibble) (b : Byte) : (s.setV r b).sp = s.sp := rfl
@[simp] theorem setV_stack (r : Nibble) (b : Byte) : (s.setV r b).stack = s.stack := rfl
@[simp] theorem setV_dt (r : Nibble) (b : Byte) : (s.setV r b).dt = s.dt := rfl
@[simp] theorem setV_st (r : Nibble) (b : Byte) : (s.setV r b).st = s.st := rfl
@[simp] theorem setV_halt (r : Nibble) (b : Byte) : (s.setV r b).halt = s.halt := rfl
@[simp] theorem setV_waitX (r : Nibble) (b : Byte) : (s.setV r b).waitX = s.waitX := rfl
@[simp] theorem setV_fault (r : Nibble) (b : Byte) : (s.setV r b).fault = s.fault := rfl
@[simp] theorem setV_mem (r : Nibble) (b : Byte) : (s.setV r b).mem = s.mem := rfl
@[simp] theorem setV_display (r : Nibble) (b : Byte) : (s.setV r b).display = s.display := rfl
@[simp] theorem setV_keys (r : Nibble) (b : Byte) : (s.setV r b).keys = s.keys := rfl
@[simp] theorem setV_cfg (r : Nibble) (b : Byte) : (s.setV r b).cfg = s.cfg := rfl
@[simp] theorem setV_io (r : Nibble) (b : Byte) : (s.setV r b).io = s.io := rfl
@[simp] theorem setV_getStack (r : Nibble) (b : Byte) (j : Nibble) : (s.setV r b).getStack j = s.getStack j := rfl
@[simp] theorem setV_byteAt (r : Nibble) (b : Byte) (c : Nat) : (s.setV r b).byteAt c = s.byteAt c := rfl
@[simp] theorem setV_bytesAt (r : Nibble) (b : Byte) (c n' : Nat) : (s.setV r b).bytesAt c n' = s.bytesAt c n' := rfl
@[simp] theorem setV_pixel (r : Nibble) (b : Byte) (p : Pixel) : (s.setV r b).pixel p = s.pixel p := rfl
@[simp] theorem setV_isPressed (r : Nibble) (b : Byte) (j : Nibble) : (s.setV r b).isPressed j = s.isPressed j := rfl
@[simp] theorem setV_base (r : Nibble) (b : Byte) : (s.setV r b).base = s.base := rfl

/-! ### setRegs -/

@[simp] theorem setRegs_v (w : Vector Byte 16) : (s.setRegs w).v = w := rfl
@[simp] theorem setRegs_i (w : Vector Byte 16) : (s.setRegs w).i = s.i := rfl
@[simp] theorem setRegs_pc (w : Vector Byte 16) : (s.setRegs w).pc = s.pc := rfl
@[simp] theorem setRegs_sp (w : Vector Byte 16) : (s.setRegs w).sp = s.sp := rfl
@[simp] theorem setRegs_stack (w : Vector Byte 16) : (s.setRegs w).stack = s.stack := rfl
@[simp] theorem setRegs_dt (w : Vector Byte 16) : (s.setRegs w).dt = s.dt := rfl
@[simp] theorem setRegs_st (w : Vector Byte 16) : (s.setRegs w).st = s.st := rfl
@[simp] theorem setRegs_halt (w : Vector Byte 16) : (s.setRegs w).halt = s.halt := rfl
@[simp] theorem setRegs_waitX (w : Vector Byte 16) : (s.setRegs w).waitX = s.waitX := rfl
@[simp] theorem setRegs_fault (w : Vector Byte 16) : (s.setRegs w).fault = s.fault := rfl
@[simp] theorem setRegs_mem (w : Vector Byte 16) : (s.setRegs w).mem = s.mem := rfl
@[simp] theorem setRegs_display (w : Vector Byte 16) : (s.setRegs w).display = s.display := rfl
@[simp] theorem setRegs_keys (w : Vector Byte 16) : (s.setRegs w).keys = s.keys := rfl
@[simp] theorem setRegs_cfg (w : Vector Byte 16) : (s.setRegs w).cfg = s.cfg := rfl
@[simp] theorem setRegs_io (w : Vector Byte 16) : (s.setRegs w).io = s.io := rfl
@[simp] theorem setRegs_getStack (w : Vector Byte 16) (j : Nibble) : (s.setRegs w).getStack j = s.getStack j := rfl
@[simp] theorem setRegs_byteAt (w : Vector Byte 16) (c : Nat) : (s.setRegs w).byteAt c = s.byteAt c := rfl
@[simp] theorem setRegs_bytesAt (w : Vector Byte 16) (c n' : Nat) : (s.setRegs w).bytesAt c n' = s.bytesAt c n' := rfl
@[simp] theorem setRegs_pixel (w : Vector Byte 16) (p : Pixel) : (s.setRegs w).pixel p = s.pixel p := rfl
@[simp] theorem setRegs_isPressed (w : Vector Byte 16) (j : Nibble) : (s.setRegs w).isPressed j = s.isPressed j := rfl
@[simp] theorem setRegs_base (w : Vector Byte 16) : (s.setRegs w).base = s.base := rfl

/-! ### setI -/

@[simp] theorem setI_v (w : Word) : (s.setI w).v = s.v := rfl
@[simp] theorem setI_i (w : Word) : (s.setI w).i = w := rfl
@[simp] theorem setI_pc (w : Word) : (s.setI w).pc = s.pc := rfl
@[simp] theorem setI_sp (w : Word) : (s.setI w).sp = s.sp := rfl
@[simp] theorem setI_stack (w : Word) : (s.setI w).stack = s.stack := rfl
@[simp] theorem setI_dt (w : Word) : (s.setI w).dt = s.dt := rfl
@[simp] theorem setI_st (w : Word) : (s.setI w).st = s.st := rfl
@[simp] theorem setI_halt (w : Word) : (s.setI w).halt = s.halt := rfl
@[simp] theorem setI_waitX (w : Word) : (s.setI w).waitX = s.waitX := rfl
@[simp] theorem setI_fault (w : Word) : (s.setI w).fault = s.fault := rfl
@[simp] theorem setI_mem (w : Word) : (s.setI w).mem = s.mem := rfl
@[simp] theorem setI_display (w : Word) : (s.setI w).display = s.display := rfl
@[simp] theorem setI_keys (w : Word) : (s.setI w).keys = s.keys := rfl
@[simp] theorem setI_cfg (w : Word) : (s.setI w).cfg = s.cfg := rfl
@[simp] theorem setI_io (w : Word) : (s.setI w).io = s.io := rfl
@[simp] theorem setI_getV (w : Word) (q : Nibble) : (s.setI w).getV q = s.getV q := rfl
@[simp] theorem setI_getStack (w : Word) (j : Nibble) : (s.setI w).getStack j = s.getStack j := rfl
@[simp] theorem setI_byteAt (w : Word) (c : Nat) : (s.setI w).byteAt c = s.byteAt c := rfl
@[simp] theorem setI_bytesAt (w : Word) (c n' : Nat) : (s.setI w).bytesAt c n' = s.bytesAt c n' := rfl
@[simp] theorem setI_pixel (w : Word) (p : Pixel) : (s.setI w).pixel p = s.pixel p := rfl
@[simp] theorem setI_isPressed (w : Word) (j : Nibble) : (s.setI w).isPressed j = s.isPressed j := rfl

/-! ### setPc -/

@[simp] theorem setPc_v (w : Word) : (s.setPc w).v = s.v := rfl
@[simp] theorem setPc_i (w : Word) : (s.setPc w).i = s.i := rfl
@[simp] theorem setPc_pc (w : Word) : (s.setPc w).pc = w := rfl
@[simp] theorem setPc_sp (w : Word) : (s.setPc w).sp = s.sp := rfl
@[simp] theorem setPc_stack (w : Word) : (s.setPc w).stack = s.stack := rfl
@[simp] theorem setPc_dt (w : Word) : (s.setPc w).dt = s.dt := rfl
@[simp] theorem setPc_st (w : Word) : (s.setPc w).st = s.st := rfl
@[simp] theorem setPc_halt (w : Word) : (s.setPc w).halt = s.halt := rfl
@[simp] theorem setPc_waitX (w : Word) : (s.setPc w).waitX = s.waitX := rfl
@[simp] theorem setPc_fault (w : Word) : (s.setPc w).fault = s.fault := rfl
@[simp] theorem setPc_mem (w : Word) : (s.setPc w).mem = s.mem := rfl
@[simp] theorem setPc_display (w : Word) : (s.setPc w).display = s.display := rfl
@[simp] theorem setPc_keys (w : Word) : (s.setPc w).keys = s.keys := rfl
@[simp] theorem setPc_cfg (w : Word) : (s.setPc w).cfg = s.cfg := rfl
@[simp] theorem setPc_io (w : Word) : (s.setPc w).io = s.io := rfl
@[simp] theorem setPc_getV (w : Word) (q : Nibble) : (s.setPc w).getV q = s.getV q := rfl
@[simp] theorem setPc_getStack (w : Word) (j : Nibble) : (s.setPc w).getStack j = s.getStack j := rfl
@[simp] theorem setPc_byteAt (w : Word) (c : Nat) : (s.setPc w).byteAt c = s.byteAt c := rfl
@[simp] theorem setPc_bytesAt (w : Word) (c n' : Nat) : (s.setPc w).bytesAt c n' = s.bytesAt c n' := rfl
@[simp] theorem setPc_pixel (w : Word) (p : Pixel) : (s.setPc w).pixel p = s.pixel p := rfl
@[simp] theorem setPc_isPressed (w : Word) (j : Nibble) : (s.setPc w).isPressed j = s.isPressed j := rfl
@[simp] theorem setPc_base (w : Word) : (s.setPc w).base = s.base := rfl

/-! ### setSp -/

@[simp] theorem setSp_v (k : Nibble) : (s.setSp k).v = s.v := rfl
@[simp] theorem setSp_i (k : Nibble) : (s.setSp k).i = s.i := rfl
@[simp] theorem setSp_pc (k : Nibble) : (s.setSp k).pc = s.pc := rfl
@[simp] theorem setSp_sp (k : Nibble) : (s.setSp k).sp = k := rfl
@[simp] theorem setSp_stack (k : Nibble) : (s.setSp k).stack = s.stack := rfl
@[simp] theorem setSp_dt (k : Nibble) : (s.setSp k).dt = s.dt := rfl
@[simp] theorem setSp_st (k : Nibble) : (s.setSp k).st = s.st := rfl
@[simp] theorem setSp_halt (k : Nibble) : (s.setSp k).halt = s.halt := rfl
@[simp] theorem setSp_waitX (k : Nibble) : (s.setSp k).waitX = s.waitX := rfl
@[simp] theorem setSp_fault (k : Nibble) : (s.setSp k).fault = s.fault := rfl
@[simp] theorem setSp_mem (k : Nibble) : (s.setSp k).mem = s.mem := rfl
@[simp] theorem setSp_display (k : Nibble) : (s.setSp k).display = s.display := rfl
@[simp] theorem setSp_keys (k : Nibble) : (s.setSp k).keys = s.keys := rfl
@[simp] theorem setSp_cfg (k : Nibble) : (s.setSp k).cfg = s.cfg := rfl
@[simp] theorem setSp_io (k : Nibble) : (s.setSp k).io = s.io := rfl
@[simp] theorem setSp_getV (k : Nibble) (q : Nibble) : (s.setSp k).getV q = s.getV q := rfl
@[simp] theorem setSp_getStack (k : Nibble) (j : Nibble) : (s.setSp k).getStack j = s.getStack j := rfl
@[simp] theorem setSp_byteAt (k : Nibble) (c : Nat) : (s.setSp k).byteAt c = s.byteAt c := rfl
@[simp] theorem setSp_bytesAt (k : Nibble) (c n' : Nat) : (s.setSp k).bytesAt c n' = s.bytesAt c n' := rfl
@[simp] theorem setSp_pixel (k : Nibble) (p : Pixel) : (s.setSp k).pixel p = s.pixel p := rfl
@[simp] theorem setSp_isPressed (k : Nibble) (j : Nibble) : (s.setSp k).isPressed j = s.isPressed j := rfl
@[simp] theorem setSp_base (k : Nibble) : (s.setSp k).base = s.base := rfl

/-! ### setStack -/

@[simp] theorem setStack_v (k : Nibble) (w : Word) : (s.setStack k w).v = s.v := rfl
@[simp] theorem setStack_i (k : Nibble) (w : Word) : (s.setStack k w).i = s.i := rfl
@[simp] theorem setStack_pc (k : Nibble) (w : Word) : (s.setStack k w).pc = s.pc := rfl
@[simp] theorem setStack_sp (k : Nibble) (w : Word) : (s.setStack k w).sp = s.sp := rfl
@[simp] theorem setStack_stack (k : Nibble) (w : Word) : (s.setStack k w).stack = s.stack.set k.toNat w k.isLt := rfl
@[simp] theorem setStack_dt (k : Nibble) (w : Word) : (s.setStack k w).dt = s.dt := rfl
@[simp] theorem setStack_st (k : Nibble) (w : Word) : (s.setStack k w).st = s.st := rfl
@[simp] theorem setStack_halt (k : Nibble) (w : Word) : (s.setStack k w).halt = s.halt := rfl
@[simp] theorem setStack_waitX (k : Nibble) (w : Word) : (s.setStack k w).waitX = s.waitX := rfl
@[simp] theorem setStack_fault (k : Nibble) (w : Word) : (s.setStack k w).fault = s.fault := rfl
@[simp] theorem setStack_mem (k : Nibble) (w : Word) : (s.setStack k w).mem = s.mem := rfl
@[simp] theorem setStack_display (k : Nibble) (w : Word) : (s.setStack k w).display = s.display := rfl
@[simp] theorem setStack_keys (k : Nibble) (w : Word) : (s.setStack k w).keys = s.keys := rfl
@[simp] theorem setStack_cfg (k : Nibble) (w : Word) : (s.setStack k w).cfg = s.cfg := rfl
@[simp] theorem setStack_io (k : Nibble) (w : Word) : (s.setStack k w).io = s.io := rfl
@[simp] theorem setStack_getV (k : Nibble) (w : Word) (q : Nibble) : (s.setStack k w).getV q = s.getV q := rfl
@[simp] theorem setStack_byteAt (k : Nibble) (w : Word) (c : Nat) : (s.setStack k w).byteAt c = s.byteAt c := rfl
@[simp] theorem setStack_bytesAt (k : Nibble) (w : Word) (c n' : Nat) : (s.setStack k w).bytesAt c n' = s.bytesAt c n' := rfl
@[simp] theorem setStack_pixel (k : Nibble) (w : Word) (p : Pixel) : (s.setStack k w).pixel p = s.pixel p := rfl
@[simp] theorem setStack_isPressed (k : Nibble) (w : Word) (j : Nibble) : (s.setStack k w).isPressed j = s.isPressed j := rfl
@[simp] theorem setStack_base (k : Nibble) (w : Word) : (s.setStack k w).base = s.base := rfl

/-! ### setDt -/

@[simp] theorem setDt_v (b : Byte) : (s.setDt b).v = s.v := rfl
@[simp] theorem setDt_i (b : Byte) : (s.setDt b).i = s.i := rfl
@[simp] theorem setDt_pc (b : Byte) : (s.setDt b).pc = s.pc := rfl
@[simp] theorem setDt_sp (b : Byte) : (s.setDt b).sp = s.sp := rfl
@[simp] theorem setDt_stack (b : Byte) : (s.setDt b).stack = s.stack := rfl
@[simp] theorem setDt_dt (b : Byte) : (s.setDt b).dt = b := rfl
@[simp] theorem setDt_st (b : Byte) : (s.setDt b).st = s.st := rfl
@[simp] theorem setDt_halt (b : Byte) : (s.setDt b).halt = s.halt := rfl
@[simp] theorem setDt_waitX (b : Byte) : (s.setDt b).waitX = s.waitX := rfl
@[simp] theorem setDt_fault (b : Byte) : (s.setDt b).fault = s.fault := rfl
@[simp] theorem setDt_mem (b : Byte) : (s.setDt b).mem = s.mem := rfl
@[simp] theorem setDt_display (b : Byte) : (s.setDt b).display = s.display := rfl
@[simp] theorem setDt_keys (b : Byte) : (s.setDt b).keys = s.keys := rfl
@[simp] theorem setDt_cfg (b : Byte) : (s.setDt b).cfg = s.cfg := rfl
@[simp] theorem setDt_io (b : Byte) : (s.setDt b).io = s.io := rfl
@[simp] theorem setDt_getV (b : Byte) (q : Nibble) : (s.setDt b).getV q = s.getV q := rfl
@[simp] theorem setDt_getStack (b : Byte) (j : Nibble) : (s.setDt b).getStack j = s.getStack j := rfl
@[simp] theorem setDt_byteAt (b : Byte) (c : Nat) : (s.setDt b).byteAt c = s.byteAt c := rfl
@[simp] theorem setDt_bytesAt (b : Byte) (c n' : Nat) : (s.setDt b).bytesAt c n' = s.bytesAt c n' := rfl
@[simp] theorem setDt_pixel (b : Byte) (p : Pixel) : (s.setDt b).pixel p = s.pixel p := rfl
@[simp] theorem setDt_isPressed (b : Byte) (j : Nibble) : (s.setDt b).isPressed j = s.isPressed j := rfl
@[simp] theorem setDt_base (b : Byte) : (s.setDt b).base = s.base := rfl

/-! ### setSt -/

@[simp] theorem setSt_v (b : Byte) : (s.setSt b).v = s.v := rfl
@[simp] theorem setSt_i (b : Byte) : (s.setSt b).i = s.i := rfl
@[simp] theorem setSt_pc (b : Byte) : (s.setSt b).pc = s.pc := rfl
@[simp] theorem setSt_sp (b : Byte) : (s.setSt b).sp = s.sp := rfl
@[simp] theorem setSt_stack (b : Byte) : (s.setSt b).stack = s.stack := rfl
@[simp] theorem setSt_dt (b : Byte) : (s.setSt b).dt = s.dt := rfl
@[simp] theorem setSt_st (b : Byte) : (s.setSt b).st = b := rfl
@[simp] theorem setSt_halt (b : Byte) : (s.setSt b).halt = s.halt := rfl
@[simp] theorem setSt_waitX (b : Byte) : (s.setSt b).waitX = s.waitX := rfl
@[simp] theorem setSt_fault (b : Byte) : (s.setSt b).fault = s.fault := rfl
@[simp] theorem setSt_mem (b : Byte) : (s.setSt b).mem = s.mem := rfl
@[simp] theorem setSt_display (b : Byte) : (s.setSt b).display = s.display := rfl
@[simp] theorem setSt_keys (b : Byte) : (s.setSt b).keys = s.keys := rfl
@[simp] theorem setSt_cfg (b : Byte) : (s.setSt b).cfg = s.cfg := rfl
@[simp] theorem setSt_io (b : Byte) : (s.setSt b).io = s.io := rfl
@[simp] theorem setSt_getV (b : Byte) (q : Nibble) : (s.setSt b).getV q = s.getV q := rfl
@[simp] theorem setSt_getStack (b : Byte) (j : Nibble) : (s.setSt b).getStack j = s.getStack j := rfl
@[simp] theorem setSt_byteAt (b : Byte) (c : Nat) : (s.setSt b).byteAt c = s.byteAt c := rfl
@[simp] theorem setSt_bytesAt (b : Byte) (c n' : Nat) : (s.setSt b).bytesAt c n' = s.bytesAt c n' := rfl
@[simp] theorem setSt_pixel (b : Byte) (p : Pixel) : (s.setSt b).pixel p = s.pixel p := rfl
@[simp] theorem setSt_isPressed (b : Byte) (j : Nibble) : (s.setSt b).isPressed j = s.isPressed j := rfl
@[simp] theorem setSt_base (b : Byte) : (s.setSt b).base = s.base := rfl

/-! ### setHalt -/

@[simp] theorem setHalt_v (h : Bool) : (s.setHalt h).v = s.v := rfl
@[simp] theorem setHalt_i (h : Bool) : (s.setHalt h).i = s.i := rfl
@[simp] theorem setHalt_pc (h : Bool) : (s.setHalt h).pc = s.pc := rfl
@[simp] theorem setHalt_sp (h : Bool) : (s.setHalt h).sp = s.sp := rfl
@[simp] theorem setHalt_stack (h : Bool) : (s.setHalt h).stack = s.stack := rfl
@[simp] theorem setHalt_dt (h : Bool) : (s.setHalt h).dt = s.dt := rfl
@[simp] theorem setHalt_st (h : Bool) : (s.setHalt h).st = s.st := rfl
@[simp] theorem setHalt_halt (h : Bool) : (s.setHalt h).halt = h := rfl
@[simp] theorem setHalt_waitX (h : Bool) : (s.setHalt h).waitX = s.waitX := rfl
@[simp] theorem setHalt_fault (h : Bool) : (s.setHalt h).fault = s.fault := rfl
@[simp] theorem setHalt_mem (h : Bool) : (s.setHalt h).mem = s.mem := rfl
@[simp] theorem setHalt_display (h : Bool) : (s.setHalt h).display = s.display := rfl
@[simp] theorem setHalt_keys (h : Bool) : (s.setHalt h).keys = s.keys := rfl
@[simp] theorem setHalt_cfg (h : Bool) : (s.setHalt h).cfg = s.cfg := rfl
@[simp] theorem setHalt_io (h : Bool) : (s.setHalt h).io = s.io := rfl
@[simp] theorem setHalt_getV (h : Bool) (q : Nibble) : (s.setHalt h).getV q = s.getV q := rfl
@[simp] theorem setHalt_getStack (h : Bool) (j : Nibble) : (s.setHalt h).getStack j = s.getStack j := rfl
@[simp] theorem setHalt_byteAt (h : Bool) (c : Nat) : (s.setHalt h).byteAt c = s.byteAt c := rfl
@[simp] theorem setHalt_bytesAt (h : Bool) (c n' : Nat) : (s.setHalt h).bytesAt c n' = s.bytesAt c n' := rfl
@[simp] theorem setHalt_pixel (h : Bool) (p : Pixel) : (s.setHalt h).pixel p = s.pixel p := rfl
@[simp] theorem setHalt_isPressed (h : Bool) (j : Nibble) : (s.setHalt h).isPressed j = s.isPressed j := rfl
@[simp] theorem setHalt_base (h : Bool) : (s.setHalt h).base = s.base := rfl

/-! ### setWaitX -/

@[simp] theorem setWaitX_v (x : Nibble) : (s.setWaitX x).v = s.v := rfl
@[simp] theorem setWaitX_i (x : Nibble) : (s.setWaitX x).i = s.i := rfl
@[simp] theorem setWaitX_pc (x : Nibble) : (s.setWaitX x).pc = s.pc := rfl
@[simp] theorem setWaitX_sp (x : Nibble) : (s.setWaitX x).sp = s.sp := rfl
@[simp] theorem setWaitX_stack (x : Nibble) : (s.setWaitX x).stack = s.stack := rfl
@[simp] theorem setWaitX_dt (x : Nibble) : (s.setWaitX x).dt = s.dt := rfl
@[simp] theorem setWaitX_st (x : Nibble) : (s.setWaitX x).st = s.st := rfl
@[simp] theorem setWaitX_halt (x : Nibble) : (s.setWaitX x).halt = s.halt := rfl
@[simp] theorem setWaitX_waitX (x : Nibble) : (s.setWaitX x).waitX = x := rfl
@[simp] theorem setWaitX_fault (x : Nibble) : (s.setWaitX x).fault = s.fault := rfl
@[simp] theorem setWaitX_mem (x : Nibble) : (s.setWaitX x).mem = s.mem := rfl
@[simp] theorem setWaitX_display (x : Nibble) : (s.setWaitX x).display = s.display := rfl
@[simp] theorem setWaitX_keys (x : Nibble) : (s.setWaitX x).keys = s.keys := rfl
@[simp] theorem setWaitX_cfg (x : Nibble) : (s.setWaitX x).cfg = s.cfg := rfl
@[simp] theorem setWaitX_io (x : Nibble) : (s.setWaitX x).io = s.io := rfl
@[simp] theorem setWaitX_getV (x : Nibble) (q : Nibble) : (s.setWaitX x).getV q = s.getV q := rfl
@[simp] theorem setWaitX_getStack (x : Nibble) (j : Nibble) : (s.setWaitX x).getStack j = s.getStack j := rfl
@[simp] theorem setWaitX_byteAt (x : Nibble) (c : Nat) : (s.setWaitX x).byteAt c = s.byteAt c := rfl
@[simp] theorem setWaitX_bytesAt (x : Nibble) (c n' : Nat) : (s.setWaitX x).bytesAt c n' = s.bytesAt c n' := rfl
@[simp] theorem setWaitX_pixel (x : Nibble) (p : Pixel) : (s.setWaitX x).pixel p = s.pixel p := rfl
@[simp] theorem setWaitX_isPressed (x : Nibble) (j : Nibble) : (s.setWaitX x).isPressed j = s.isPressed j := rfl
@[simp] theorem setWaitX_base (x : Nibble) : (s.setWaitX x).base = s.base := rfl

/-! ### setFault -/

@[simp] theorem setFault_v (e : Exception) : (s.setFault e).v = s.v := rfl
@[simp] theorem setFault_i (e : Exception) : (s.setFault e).i = s.i := rfl
@[simp] theorem setFault_pc (e : Exception) : (s.setFault e).pc = s.pc := rfl
@[simp] theorem setFault_sp (e : Exception) : (s.setFault e).sp = s.sp := rfl
@[simp] theorem setFault_stack (e : Exception) : (s.setFault e).stack = s.stack := rfl
@[simp] theorem setFault_dt (e : Exception) : (s.setFault e).dt = s.dt := rfl
@[simp] theorem setFault_st (e : Exception) : (s.setFault e).st = s.st := rfl
@[simp] theorem setFault_halt (e : Exception) : (s.setFault e).halt = s.halt := rfl
@[simp] theorem setFault_waitX (e : Exception) : (s.setFault e).waitX = s.waitX := rfl
@[simp] theorem setFault_fault (e : Exception) : (s.setFault e).fault = some e := rfl
@[simp] theorem setFault_mem (e : Exception) : (s.setFault e).mem = s.mem := rfl
@[simp] theorem setFault_display (e : Exception) : (s.setFault e).display = s.display := rfl
@[simp] theorem setFault_keys (e : Exception) : (s.setFault e).keys = s.keys := rfl
@[simp] theorem setFault_cfg (e : Exception) : (s.setFault e).cfg = s.cfg := rfl
@[simp] theorem setFault_io (e : Exception) : (s.setFault e).io = s.io := rfl
@[simp] theorem setFault_getV (e : Exception) (q : Nibble) : (s.setFault e).getV q = s.getV q := rfl
@[simp] theorem setFault_getStack (e : Exception) (j : Nibble) : (s.setFault e).getStack j = s.getStack j := rfl
@[simp] theorem setFault_byteAt (e : Exception) (c : Nat) : (s.setFault e).byteAt c = s.byteAt c := rfl
@[simp] theorem setFault_bytesAt (e : Exception) (c n' : Nat) : (s.setFault e).bytesAt c n' = s.bytesAt c n' := rfl
@[simp] theorem setFault_pixel (e : Exception) (p : Pixel) : (s.setFault e).pixel p = s.pixel p := rfl
@[simp] theorem setFault_isPressed (e : Exception) (j : Nibble) : (s.setFault e).isPressed j = s.isPressed j := rfl
@[simp] theorem setFault_base (e : Exception) : (s.setFault e).base = s.base := rfl

/-! ### setMem -/

@[simp] theorem setMem_v (m : Memory) : (s.setMem m).v = s.v := rfl
@[simp] theorem setMem_i (m : Memory) : (s.setMem m).i = s.i := rfl
@[simp] theorem setMem_pc (m : Memory) : (s.setMem m).pc = s.pc := rfl
@[simp] theorem setMem_sp (m : Memory) : (s.setMem m).sp = s.sp := rfl
@[simp] theorem setMem_stack (m : Memory) : (s.setMem m).stack = s.stack := rfl
@[simp] theorem setMem_dt (m : Memory) : (s.setMem m).dt = s.dt := rfl
@[simp] theorem setMem_st (m : Memory) : (s.setMem m).st = s.st := rfl
@[simp] theorem setMem_halt (m : Memory) : (s.setMem m).halt = s.halt := rfl
@[simp] theorem setMem_waitX (m : Memory) : (s.setMem m).waitX = s.waitX := rfl
@[simp] theorem setMem_fault (m : Memory) : (s.setMem m).fault = s.fault := rfl
@[simp] theorem setMem_mem (m : Memory) : (s.setMem m).mem = m := rfl
@[simp] theorem setMem_display (m : Memory) : (s.setMem m).display = s.display := rfl
@[simp] theorem setMem_keys (m : Memory) : (s.setMem m).keys = s.keys := rfl
@[simp] theorem setMem_cfg (m : Memory) : (s.setMem m).cfg = s.cfg := rfl
@[simp] theorem setMem_io (m : Memory) : (s.setMem m).io = s.io := rfl
@[simp] theorem setMem_getV (m : Memory) (q : Nibble) : (s.setMem m).getV q = s.getV q := rfl
@[simp] theorem setMem_getStack (m : Memory) (j : Nibble) : (s.setMem m).getStack j = s.getStack j := rfl
@[simp] theorem setMem_pixel (m : Memory) (p : Pixel) : (s.setMem m).pixel p = s.pixel p := rfl
@[simp] theorem setMem_isPressed (m : Memory) (j : Nibble) : (s.setMem m).isPressed j = s.isPressed j := rfl
@[simp] theorem setMem_base (m : Memory) : (s.setMem m).base = s.base := rfl

/-! ### writeBytes -/

@[simp] theorem writeBytes_v (a : Nat) (bs : List Byte) : (s.writeBytes a bs).v = s.v := rfl
@[simp] theorem writeBytes_i (a : Nat) (bs : List Byte) : (s.writeBytes a bs).i = s.i := rfl
@[simp] theorem writeBytes_pc (a : Nat) (bs : List Byte) : (s.writeBytes a bs).pc = s.pc := rfl
@[simp] theorem writeBytes_sp (a : Nat) (bs : List Byte) : (s.writeBytes a bs).sp = s.sp := rfl
@[simp] theorem writeBytes_stack (a : Nat) (bs : List Byte) : (s.writeBytes a bs).stack = s.stack := rfl
@[simp] theorem writeBytes_dt (a : Nat) (bs : List Byte) : (s.writeBytes a bs).dt = s.dt := rfl
@[simp] theorem writeBytes_st (a : Nat) (bs : List Byte) : (s.writeBytes a bs).st = s.st := rfl
@[simp] theorem writeBytes_halt (a : Nat) (bs : List Byte) : (s.writeBytes a bs).halt = s.halt := rfl
@[simp] theorem writeBytes_waitX (a : Nat) (bs : List Byte) : (s.writeBytes a bs).waitX = s.waitX := rfl
@[simp] theorem writeBytes_fault (a : Nat) (bs : List Byte) : (s.writeBytes a bs).fault = s.fault := rfl
@[simp] theorem writeBytes_mem (a : Nat) (bs : List Byte) : (s.writeBytes a bs).mem = s.mem.writeBytes s.cfg a bs := rfl
@[simp] theorem writeBytes_display (a : Nat) (bs : List Byte) : (s.writeBytes a bs).display = s.display := rfl
@[simp] theorem writeBytes_keys (a : Nat) (bs : List Byte) : (s.writeBytes a bs).keys = s.keys := rfl
@[simp] theorem writeBytes_cfg (a : Nat) (bs : List Byte) : (s.writeBytes a bs).cfg = s.cfg := rfl
@[simp] theorem writeBytes_io (a : Nat) (bs : List Byte) : (s.writeBytes a bs).io = s.io := rfl
@[simp] theorem writeBytes_getV (a : Nat) (bs : List Byte) (q : Nibble) : (s.writeBytes a bs).getV q = s.getV q := rfl
@[simp] theorem writeBytes_getStack (a : Nat) (bs : List Byte) (j : Nibble) : (s.writeBytes a bs).getStack j = s.getStack j := rfl
@[simp] theorem writeBytes_pixel (a : Nat) (bs : List Byte) (p : Pixel) : (s.writeBytes a bs).pixel p = s.pixel p := rfl
@[simp] theorem writeBytes_isPressed (a : Nat) (bs : List Byte) (j : Nibble) : (s.writeBytes a bs).isPressed j = s.isPressed j := rfl
@[simp] theorem writeBytes_base (a : Nat) (bs : List Byte) : (s.writeBytes a bs).base = s.base := rfl

/-! ### setDisplay -/

@[simp] theorem setDisplay_v (d : Raster) : (s.setDisplay d).v = s.v := rfl
@[simp] theorem setDisplay_i (d : Raster) : (s.setDisplay d).i = s.i := rfl
@[simp] theorem setDisplay_pc (d : Raster) : (s.setDisplay d).pc = s.pc := rfl
@[simp] theorem setDisplay_sp (d : Raster) : (s.setDisplay d).sp = s.sp := rfl
@[simp] theorem setDisplay_stack (d : Raster) : (s.setDisplay d).stack = s.stack := rfl
@[simp] theorem setDisplay_dt (d : Raster) : (s.setDisplay d).dt = s.dt := rfl
@[simp] theorem setDisplay_st (d : Raster) : (s.setDisplay d).st = s.st := rfl
@[simp] theorem setDisplay_halt (d : Raster) : (s.setDisplay d).halt = s.halt := rfl
@[simp] theorem setDisplay_waitX (d : Raster) : (s.setDisplay d).waitX = s.waitX := rfl
@[simp] theorem setDisplay_fault (d : Raster) : (s.setDisplay d).fault = s.fault := rfl
@[simp] theorem setDisplay_mem (d : Raster) : (s.setDisplay d).mem = s.mem := rfl
@[simp] theorem setDisplay_display (d : Raster) : (s.setDisplay d).display = d := rfl
@[simp] theorem setDisplay_keys (d : Raster) : (s.setDisplay d).keys = s.keys := rfl
@[simp] theorem setDisplay_cfg (d : Raster) : (s.setDisplay d).cfg = s.cfg := rfl
@[simp] theorem setDisplay_io (d : Raster) : (s.setDisplay d).io = s.io := rfl
@[simp] theorem setDisplay_getV (d : Raster) (q : Nibble) : (s.setDisplay d).getV q = s.getV q := rfl
@[simp] theorem setDisplay_getStack (d : Raster) (j : Nibble) : (s.setDisplay d).getStack j = s.getStack j := rfl
@[simp] theorem setDisplay_byteAt (d : Raster) (c : Nat) : (s.setDisplay d).byteAt c = s.byteAt c := rfl
@[simp] theorem setDisplay_bytesAt (d : Raster) (c n' : Nat) : (s.setDisplay d).bytesAt c n' = s.bytesAt c n' := rfl
@[simp] theorem setDisplay_isPressed (d : Raster) (j : Nibble) : (s.setDisplay d).isPressed j = s.isPressed j := rfl
@[simp] theorem setDisplay_base (d : Raster) : (s.setDisplay d).base = s.base := rfl

/-! ### clearDisplay -/

@[simp] theorem clearDisplay_v : (s.clearDisplay).v = s.v := rfl
@[simp] theorem clearDisplay_i : (s.clearDisplay).i = s.i := rfl
@[simp] theorem clearDisplay_pc : (s.clearDisplay).pc = s.pc := rfl
@[simp] theorem clearDisplay_sp : (s.clearDisplay).sp = s.sp := rfl
@[simp] theorem clearDisplay_stack : (s.clearDisplay).stack = s.stack := rfl
@[simp] theorem clearDisplay_dt : (s.clearDisplay).dt = s.dt := rfl
@[simp] theorem clearDisplay_st : (s.clearDisplay).st = s.st := rfl
@[simp] theorem clearDisplay_halt : (s.clearDisplay).halt = s.halt := rfl
@[simp] theorem clearDisplay_waitX : (s.clearDisplay).waitX = s.waitX := rfl
@[simp] theorem clearDisplay_fault : (s.clearDisplay).fault = s.fault := rfl
@[simp] theorem clearDisplay_mem : (s.clearDisplay).mem = s.mem := rfl
@[simp] theorem clearDisplay_display : (s.clearDisplay).display = [] := rfl
@[simp] theorem clearDisplay_keys : (s.clearDisplay).keys = s.keys := rfl
@[simp] theorem clearDisplay_cfg : (s.clearDisplay).cfg = s.cfg := rfl
@[simp] theorem clearDisplay_io : (s.clearDisplay).io = s.io := rfl
@[simp] theorem clearDisplay_getV (q : Nibble) : (s.clearDisplay).getV q = s.getV q := rfl
@[simp] theorem clearDisplay_getStack (j : Nibble) : (s.clearDisplay).getStack j = s.getStack j := rfl
@[simp] theorem clearDisplay_byteAt (c : Nat) : (s.clearDisplay).byteAt c = s.byteAt c := rfl
@[simp] theorem clearDisplay_bytesAt (c n' : Nat) : (s.clearDisplay).bytesAt c n' = s.bytesAt c n' := rfl
@[simp] theorem clearDisplay_isPressed (j : Nibble) : (s.clearDisplay).isPressed j = s.isPressed j := rfl
@[simp] theorem clearDisplay_base : (s.clearDisplay).base = s.base := rfl

/-! ### setKey -/

@[simp] theorem setKey_v (k : Nibble) (down : Bool) : (s.setKey k down).v = s.v := rfl
@[simp] theorem setKey_i (k : Nibble) (down : Bool) : (s.setKey k down).i = s.i := rfl
@[simp] theorem setKey_pc (k : Nibble) (down : Bool) : (s.setKey k down).pc = s.pc := rfl
@[simp] theorem setKey_sp (k : Nibble) (down : Bool) : (s.setKey k down).sp = s.sp := rfl
@[simp] theorem setKey_stack (k : Nibble) (down : Bool) : (s.setKey k down).stack = s.stack := rfl
@[simp] theorem setKey_dt (k : Nibble) (down : Bool) : (s.setKey k down).dt = s.dt := rfl
@[simp] theorem setKey_st (k : Nibble) (down : Bool) : (s.setKey k down).st = s.st := rfl
@[simp] theorem setKey_halt (k : Nibble) (down : Bool) : (s.setKey k down).halt = s.halt := rfl
@[simp] theorem setKey_waitX (k : Nibble) (down : Bool) : (s.setKey k down).waitX = s.waitX := rfl
@[simp] theorem setKey_fault (k : Nibble) (down : Bool) : (s.setKey k down).fault = s.fault := rfl
@[simp] theorem setKey_mem (k : Nibble) (down : Bool) : (s.setKey k down).mem = s.mem := rfl
@[simp] theorem setKey_display (k : Nibble) (down : Bool) : (s.setKey k down).display = s.display := rfl
@[simp] theorem setKey_keys (k : Nibble) (down : Bool) : (s.setKey k down).keys = s.keys.set k.toNat down k.isLt := rfl
@[simp] theorem setKey_cfg (k : Nibble) (down : Bool) : (s.setKey k down).cfg = s.cfg := rfl
@[simp] theorem setKey_io (k : Nibble) (down : Bool) : (s.setKey k down).io = s.io := rfl
@[simp] theorem setKey_getV (k : Nibble) (down : Bool) (q : Nibble) : (s.setKey k down).getV q = s.getV q := rfl
@[simp] theorem setKey_getStack (k : Nibble) (down : Bool) (j : Nibble) : (s.setKey k down).getStack j = s.getStack j := rfl
@[simp] theorem setKey_byteAt (k : Nibble) (down : Bool) (c : Nat) : (s.setKey k down).byteAt c = s.byteAt c := rfl
@[simp] theorem setKey_bytesAt (k : Nibble) (down : Bool) (c n' : Nat) : (s.setKey k down).bytesAt c n' = s.bytesAt c n' := rfl
@[simp] theorem setKey_pixel (k : Nibble) (down : Bool) (p : Pixel) : (s.setKey k down).pixel p = s.pixel p := rfl
@[simp] theorem setKey_base (k : Nibble) (down : Bool) : (s.setKey k down).base = s.base := rfl

/-! ### setIo -/

@[simp] theorem setIo_v (io : Io) : (s.setIo io).v = s.v := rfl
@[simp] theorem setIo_i (io : Io) : (s.setIo io).i = s.i := rfl
@[simp] theorem setIo_pc (io : Io) : (s.setIo io).pc = s.pc := rfl
@[simp] theorem setIo_sp (io : Io) : (s.setIo io).sp = s.sp := rfl
@[simp] theorem setIo_stack (io : Io) : (s.setIo io).stack = s.stack := rfl
@[simp] theorem setIo_dt (io : Io) : (s.setIo io).dt = s.dt := rfl
@[simp] theorem setIo_st (io : Io) : (s.setIo io).st = s.st := rfl
@[simp] theorem setIo_halt (io : Io) : (s.setIo io).halt = s.halt := rfl
@[simp] theorem setIo_waitX (io : Io) : (s.setIo io).waitX = s.waitX := rfl
@[simp] theorem setIo_fault (io : Io) : (s.setIo io).fault = s.fault := rfl
@[simp] theorem setIo_mem (io : Io) : (s.setIo io).mem = s.mem := rfl
@[simp] theorem setIo_display (io : Io) : (s.setIo io).display = s.display := rfl
@[simp] theorem setIo_keys (io : Io) : (s.setIo io).keys = s.keys := rfl
@[simp] theorem setIo_cfg (io : Io) : (s.setIo io).cfg = s.cfg := rfl
@[simp] theorem setIo_io (io : Io) : (s.setIo io).io = io := rfl
@[simp] theorem setIo_getV (io : Io) (q : Nibble) : (s.setIo io).getV q = s.getV q := rfl
@[simp] theorem setIo_getStack (io : Io) (j : Nibble) : (s.setIo io).getStack j = s.getStack j := rfl
@[simp] theorem setIo_byteAt (io : Io) (c : Nat) : (s.setIo io).byteAt c = s.byteAt c := rfl
@[simp] theorem setIo_bytesAt (io : Io) (c n' : Nat) : (s.setIo io).bytesAt c n' = s.bytesAt c n' := rfl
@[simp] theorem setIo_pixel (io : Io) (p : Pixel) : (s.setIo io).pixel p = s.pixel p := rfl
@[simp] theorem setIo_isPressed (io : Io) (j : Nibble) : (s.setIo io).isPressed j = s.isPressed j := rfl
@[simp] theorem setIo_base (io : Io) : (s.setIo io).base = s.base := rfl

/-! ### emit -/

@[simp] theorem emit_v (n : Output) : (s.emit n).v = s.v := rfl
@[simp] theorem emit_i (n : Output) : (s.emit n).i = s.i := rfl
@[simp] theorem emit_pc (n : Output) : (s.emit n).pc = s.pc := rfl
@[simp] theorem emit_sp (n : Output) : (s.emit n).sp = s.sp := rfl
@[simp] theorem emit_stack (n : Output) : (s.emit n).stack = s.stack := rfl
@[simp] theorem emit_dt (n : Output) : (s.emit n).dt = s.dt := rfl
@[simp] theorem emit_st (n : Output) : (s.emit n).st = s.st := rfl
@[simp] theorem emit_halt (n : Output) : (s.emit n).halt = s.halt := rfl
@[simp] theorem emit_waitX (n : Output) : (s.emit n).waitX = s.waitX := rfl
@[simp] theorem emit_fault (n : Output) : (s.emit n).fault = s.fault := rfl
@[simp] theorem emit_mem (n : Output) : (s.emit n).mem = s.mem := rfl
@[simp] theorem emit_display (n : Output) : (s.emit n).display = s.display := rfl
@[simp] theorem emit_keys (n : Output) : (s.emit n).keys = s.keys := rfl
@[simp] theorem emit_cfg (n : Output) : (s.emit n).cfg = s.cfg := rfl
@[simp] theorem emit_io (n : Output) : (s.emit n).io = { s.io with out := s.io.out ++ [n] } := rfl
@[simp] theorem emit_getV (n : Output) (q : Nibble) : (s.emit n).getV q = s.getV q := rfl
@[simp] theorem emit_getStack (n : Output) (j : Nibble) : (s.emit n).getStack j = s.getStack j := rfl
@[simp] theorem emit_byteAt (n : Output) (c : Nat) : (s.emit n).byteAt c = s.byteAt c := rfl
@[simp] theorem emit_bytesAt (n : Output) (c n' : Nat) : (s.emit n).bytesAt c n' = s.bytesAt c n' := rfl
@[simp] theorem emit_pixel (n : Output) (p : Pixel) : (s.emit n).pixel p = s.pixel p := rfl
@[simp] theorem emit_isPressed (n : Output) (j : Nibble) : (s.emit n).isPressed j = s.isPressed j := rfl
@[simp] theorem emit_base (n : Output) : (s.emit n).base = s.base := rfl

/-! ### present -/

@[simp] theorem present_v (b : Byte) : (s.present b).v = s.v := rfl
@[simp] theorem present_i (b : Byte) : (s.present b).i = s.i := rfl
@[simp] theorem present_pc (b : Byte) : (s.present b).pc = s.pc := rfl
@[simp] theorem present_sp (b : Byte) : (s.present b).sp = s.sp := rfl
@[simp] theorem present_stack (b : Byte) : (s.present b).stack = s.stack := rfl
@[simp] theorem present_dt (b : Byte) : (s.present b).dt = s.dt := rfl
@[simp] theorem present_st (b : Byte) : (s.present b).st = s.st := rfl
@[simp] theorem present_halt (b : Byte) : (s.present b).halt = s.halt := rfl
@[simp] theorem present_waitX (b : Byte) : (s.present b).waitX = s.waitX := rfl
@[simp] theorem present_fault (b : Byte) : (s.present b).fault = s.fault := rfl
@[simp] theorem present_mem (b : Byte) : (s.present b).mem = s.mem := rfl
@[simp] theorem present_display (b : Byte) : (s.present b).display = s.display := rfl
@[simp] theorem present_keys (b : Byte) : (s.present b).keys = s.keys := rfl
@[simp] theorem present_cfg (b : Byte) : (s.present b).cfg = s.cfg := rfl
@[simp] theorem present_io (b : Byte) : (s.present b).io = { s.io with rnd := b } := rfl
@[simp] theorem present_getV (b : Byte) (q : Nibble) : (s.present b).getV q = s.getV q := rfl
@[simp] theorem present_getStack (b : Byte) (j : Nibble) : (s.present b).getStack j = s.getStack j := rfl
@[simp] theorem present_byteAt (b : Byte) (c : Nat) : (s.present b).byteAt c = s.byteAt c := rfl
@[simp] theorem present_bytesAt (b : Byte) (c n' : Nat) : (s.present b).bytesAt c n' = s.bytesAt c n' := rfl
@[simp] theorem present_pixel (b : Byte) (p : Pixel) : (s.present b).pixel p = s.pixel p := rfl
@[simp] theorem present_isPressed (b : Byte) (j : Nibble) : (s.present b).isPressed j = s.isPressed j := rfl
@[simp] theorem present_base (b : Byte) : (s.present b).base = s.base := rfl

/-! ### advance -/

@[simp] theorem advance_v : (s.advance).v = s.v := rfl
@[simp] theorem advance_i : (s.advance).i = s.i := rfl
@[simp] theorem advance_pc : (s.advance).pc = s.pc + 2 := rfl
@[simp] theorem advance_sp : (s.advance).sp = s.sp := rfl
@[simp] theorem advance_stack : (s.advance).stack = s.stack := rfl
@[simp] theorem advance_dt : (s.advance).dt = s.dt := rfl
@[simp] theorem advance_st : (s.advance).st = s.st := rfl
@[simp] theorem advance_halt : (s.advance).halt = s.halt := rfl
@[simp] theorem advance_waitX : (s.advance).waitX = s.waitX := rfl
@[simp] theorem advance_fault : (s.advance).fault = s.fault := rfl
@[simp] theorem advance_mem : (s.advance).mem = s.mem := rfl
@[simp] theorem advance_display : (s.advance).display = s.display := rfl
@[simp] theorem advance_keys : (s.advance).keys = s.keys := rfl
@[simp] theorem advance_cfg : (s.advance).cfg = s.cfg := rfl
@[simp] theorem advance_io : (s.advance).io = s.io := rfl
@[simp] theorem advance_getV (q : Nibble) : (s.advance).getV q = s.getV q := rfl
@[simp] theorem advance_getStack (j : Nibble) : (s.advance).getStack j = s.getStack j := rfl
@[simp] theorem advance_byteAt (c : Nat) : (s.advance).byteAt c = s.byteAt c := rfl
@[simp] theorem advance_bytesAt (c n' : Nat) : (s.advance).bytesAt c n' = s.bytesAt c n' := rfl
@[simp] theorem advance_pixel (p : Pixel) : (s.advance).pixel p = s.pixel p := rfl
@[simp] theorem advance_isPressed (j : Nibble) : (s.advance).isPressed j = s.isPressed j := rfl
@[simp] theorem advance_base : (s.advance).base = s.base := rfl

/-! ### A read after the write of the same piece -/

theorem getV_setV (r q : Nibble) (b : Byte) : (s.setV r b).getV q = if q = r then b else s.getV q := by
  simp [getV, setV, Vector.getElem_set, BitVec.toNat_inj, eq_comm]

@[simp] theorem getV_setV_same (r : Nibble) (b : Byte) : (s.setV r b).getV r = b := by
  simp [getV_setV]

theorem getStack_setStack (k j : Nibble) (w : Word) :
    (s.setStack k w).getStack j = if j = k then w else s.getStack j := by
  simp [getStack, setStack, Vector.getElem_set, BitVec.toNat_inj, eq_comm]

theorem isPressed_setKey (k j : Nibble) (down : Bool) :
    (s.setKey k down).isPressed j = if j = k then down else s.isPressed j := by
  simp [isPressed, setKey, Vector.getElem_set, BitVec.toNat_inj, eq_comm]

@[simp] theorem byteAt_setMem (m : Memory) (a : Nat) : (s.setMem m).byteAt a = m.read s.cfg a := rfl

@[simp] theorem byteAt_writeBytes (a : Nat) (bs : List Byte) (c : Nat) :
    (s.writeBytes a bs).byteAt c = (s.mem.writeBytes s.cfg a bs).read s.cfg c := rfl

@[simp] theorem pixel_setDisplay (d : Raster) (p : Pixel) : (s.setDisplay d).pixel p = d.lit p := rfl

@[simp] theorem pixel_clearDisplay (p : Pixel) : s.clearDisplay.pixel p = false := rfl

/-- Two states with the same registers, read one by one, have the same register file. -/
theorem v_ext {s t : State} (h : ∀ r, t.getV r = s.getV r) : t.v = s.v := by
  refine Vector.ext fun k hk => ?_
  have := h (BitVec.ofNat 4 k)
  simpa [getV, Nat.mod_eq_of_lt hk] using this

/-- Two states with the same stack slots, read one by one, have the same stack. -/
theorem stack_ext {s t : State} (h : ∀ j, t.getStack j = s.getStack j) : t.stack = s.stack := by
  refine Vector.ext fun k hk => ?_
  have := h (BitVec.ofNat 4 k)
  simpa [getStack, Nat.mod_eq_of_lt hk] using this

/-- The register file of reg-load, read one register at a time (R155). -/
theorem getV_regsFromMem (x r : Nibble) :
    (s.setRegs (s.regsFromMem x)).getV r
      = if r.toNat ≤ x.toNat then s.byteAt (s.base + r.toNat) else s.getV r := by
  simp [getV, setRegs, regsFromMem]

end Sys2Proof.Machine.State
end

