-- ==== Sys2Proof/Laws/Ops.lean ====
section
/-! SUPPORT. One lemma for each shared operation, saying everything it can do, so that no later proof unfolds it. -/

namespace Sys2Proof.Machine

variable {s t : State}

/-! ### How a handler ends -/

@[simp] theorem finish_eq (s : State) : finish s = .next s.advance := rfl

@[simp] theorem finishAt_eq (w : Word) (s : State) : finishAt w s = .next (s.setPc w) := rfl

@[simp] theorem skipIf_eq (cond : Bool) (s : State) :
    skipIf cond s = .next (s.setPc (if cond then s.pc + 4 else s.pc + 2)) := rfl

theorem finishFlagged_eq (x : Nibble) (flag result : Byte) (s : State) :
    finishFlagged x flag result s = .next (((s.setV 15 flag).setV x result).advance) := rfl

/-- The registers after a flag-producing operation (R131). -/
theorem getV_flagged (s : State) (x r : Nibble) (flag result : Byte) :
    (((s.setV 15 flag).setV x result).advance).getV r
      = if r = x then result else if r = 15 then flag else s.getV r := by
  rw [State.advance_getV, State.getV_setV, State.getV_setV]

/-! ### Exceptions -/

/-- Taking an exception, in one equation (R241). -/
@[simp] theorem raise_eq (e : Exception) (s : State) : raise e s = .next (faulted s e) := rfl

@[simp] theorem faulted_fault (s : State) (e : Exception) : (faulted s e).fault = some e := rfl

/-- An access in range goes on. -/
theorem inRange_ok {kind : FaultKind} {base count : Nat} {go : Result}
    (h : count = 0 ∨ base + count ≤ memSize) : inRange kind base count s go = go := if_pos h

/-- An access that touches an address outside memory raises, naming the lowest such address (R51). -/
theorem inRange_fault {kind : FaultKind} {base count : Nat} {go : Result}
    (hc : count ≠ 0) (h : memSize < base + count) :
    inRange kind base count s go = .next (faulted s (.memoryFault kind (max base memSize))) :=
  if_neg (by omega)

/-- Everything a range-checked access can do. -/
theorem inRange_cases {kind : FaultKind} {base count : Nat} {go : Result} (h : inRange kind base count s go = .next t) :
    ((count = 0 ∨ base + count ≤ memSize) ∧ go = .next t) ∨
      (count ≠ 0 ∧ memSize < base + count ∧ t = faulted s (.memoryFault kind (max base memSize))) := by
  by_cases hr : count = 0 ∨ base + count ≤ memSize
  · rw [inRange_ok hr] at h; exact .inl ⟨hr, h⟩
  · rw [inRange_fault (by omega) (by omega)] at h
    injection h with h
    exact .inr ⟨by omega, by omega, h.symm⟩

/-- A key number in range is looked up. -/
theorem withKey_ok {k : Byte} {go : Bool → Result} (h : k.toNat ≤ 15) :
    withKey k s go = go (s.isPressed (k.setWidth 4)) := if_neg (by omega)

/-- A key number above 15 raises (R235). -/
theorem withKey_fault {k : Byte} {go : Bool → Result} (h : 15 < k.toNat) :
    withKey k s go = .next (faulted s (.memoryFault .keyIndex k.toNat)) := if_pos h

/-- Everything a key lookup can do. -/
theorem withKey_cases {k : Byte} {go : Bool → Result} (h : withKey k s go = .next t) :
    (k.toNat ≤ 15 ∧ go (s.isPressed (k.setWidth 4)) = .next t) ∨
      (15 < k.toNat ∧ t = faulted s (.memoryFault .keyIndex k.toNat)) := by
  by_cases hr : k.toNat ≤ 15
  · rw [withKey_ok hr] at h; exact .inl ⟨hr, h⟩
  · rw [withKey_fault (by omega)] at h
    injection h with h
    exact .inr ⟨by omega, h.symm⟩

/-! ### Runs of registers and bytes -/

@[simp] theorem length_regsUpTo (s : State) (x : Nibble) : (s.regsUpTo x).length = x.toNat + 1 := by
  simp [State.regsUpTo]

@[simp] theorem getElem_regsUpTo (s : State) (x : Nibble) (k : Nat) (hk : k < (s.regsUpTo x).length) :
    (s.regsUpTo x)[k] = s.getV (BitVec.ofNat 4 k) := by
  simp [State.regsUpTo]

@[simp] theorem length_bcdDigits (b : Byte) : (bcdDigits b).length = 3 := rfl

@[simp] theorem length_bytesAt (s : State) (a n : Nat) : (s.bytesAt a n).length = n := by
  simp [State.bytesAt]

@[simp] theorem getElem_bytesAt (s : State) (a n k : Nat) (hk : k < (s.bytesAt a n).length) :
    (s.bytesAt a n)[k] = s.byteAt (a + k) := by
  simp [State.bytesAt, State.byteAt]

/-- One byte after a store that stays in memory. -/
theorem byteAt_stored (a : Nat) (bs : List Byte) (c : Nat) (h : MemoryCanonical s) (ha : a + bs.length ≤ memSize) :
    (s.writeBytes a bs).byteAt c = if hc : a ≤ c ∧ c < a + bs.length then bs[c - a] else s.byteAt c :=
  Memory.read_writeBytes bs c h ha

/-- One byte outside a store, in any memory. -/
theorem byteAt_stored_outside (s : State) (a : Nat) (bs : List Byte) (c : Nat) (h : c < a ∨ a + bs.length ≤ c) :
    (s.writeBytes a bs).byteAt c = s.byteAt c :=
  Memory.read_writeBytes_outside s.mem bs h

/-! ### Sprites -/

/-- The pixels draw-sprite toggles, bit by bit: rows from the top, columns from the left in a row (R166). -/
theorem spriteAt_eq (s : State) (x y n : Nibble) :
    s.spriteAt x y n
      = (List.range n.toNat).flatMap fun row => (List.range 8).filterMap fun col => lands s x y row col := by
  simp only [State.spriteAt, State.bytesAt, Memory.readBytes, spritePixels_map]
  refine List.flatMap_congr fun row _ => List.filterMap_congr fun col hc => ?_
  have hc : col < 8 := List.mem_range.mp hc
  simp only [lands, BitVec.getMsbD, hc, decide_true, Bool.true_and]
  rfl

/-- How often a pixel is toggled by draw-sprite. -/
theorem count_spriteAt (s : State) (x y n : Nibble) (p : Pixel) :
    (s.spriteAt x y n).count p = landings s x y n p := by
  rw [spriteAt_eq, List.count_flatMap, landings]
  congr 1
  refine List.map_congr_left fun row _ => ?_
  simp only [Function.comp_apply, List.count, List.countP_filterMap]
  refine List.countP_congr fun col _ => ?_
  cases lands s x y row col <;> simp
/-! ### Results computed exactly agree with wrapping arithmetic (R130) -/

theorem addResult_eq (a b : Byte) : addResult a b = a + b := by
  apply BitVec.eq_of_toNat_eq; simp [addResult]

theorem subResult_eq (a b : Byte) : subResult a b = a - b := by
  apply BitVec.eq_of_toNat_eq
  have := a.isLt
  have := b.isLt
  simp only [subResult, BitVec.toNat_ofNat, BitVec.toNat_sub]
  omega

theorem shrResult_eq (a : Byte) : shrResult a = a >>> 1 := by
  apply BitVec.eq_of_toNat_eq
  have := a.isLt
  simp only [shrResult, BitVec.toNat_ofNat, BitVec.toNat_ushiftRight, Nat.shiftRight_eq_div_pow]
  omega

theorem shlResult_eq (a : Byte) : shlResult a = a <<< 1 := by
  apply BitVec.eq_of_toNat_eq
  simp [shlResult, Nat.shiftLeft_eq]

/-- A timer's next value (R205). -/
theorem countDown_toNat (b : Byte) : (countDown b).toNat = b.toNat - 1 := by
  simp only [countDown]
  split
  · rename_i h; subst h; rfl
  · rename_i h
    have hb : b.toNat ≠ 0 := fun hc => h (BitVec.eq_of_toNat_eq (by simpa using hc))
    have := b.isLt
    rw [BitVec.toNat_sub_of_le (by rw [BitVec.le_def]; change 1 ≤ b.toNat; omega)]
    rfl

end Sys2Proof.Machine
end

