-- ==== Sys2Proof/Laws/PerInstr.lean ====
section
/-! SUPPORT. A statement made for every instruction as syntax: its word carries the fixed bits of its row of the opcode
map (R89), whatever its operands. One lemma for each constructor. -/

namespace Sys2Proof.Laws

/-- Masking a word of format NNN with the group mask. -/
theorem mask_nnn (g : Nibble) (nnn : Addr) : ((g ++ nnn : BitVec 16) &&& 0xF000#16) = g ++ 0x000#12 := by
  rw [show (0xF000#16 : BitVec 16) = (0xF#4 ++ 0x000#12 : BitVec 16) from rfl, BitVec.and_append]
  simp only [BitVec.and_zero, show ∀ g : Nibble, g &&& 0xF#4 = g by decide]

/-- Masking a word of format XNN with the group mask. -/
theorem mask_xnn (g x : Nibble) (nn : Byte) : ((g ++ x ++ nn : BitVec 16) &&& 0xF000#16) = g ++ 0x000#12 := by
  rw [show (0xF000#16 : BitVec 16) = (0xF#4 ++ 0x0#4 ++ 0x00#8 : BitVec 16) from rfl, BitVec.and_append,
    BitVec.and_append]
  simp only [BitVec.and_zero, show ∀ g : Nibble, g &&& 0xF#4 = g by decide]
  revert g
  decide

/-- Masking a word of format XYN with the mask of group 8. -/
theorem mask_xyn (g x y n : Nibble) :
    ((g ++ x ++ (y ++ n) : BitVec 16) &&& 0xF00F#16) = g ++ 0x00#8 ++ n := by
  rw [show (0xF00F#16 : BitVec 16) = (0xF#4 ++ 0x0#4 ++ (0x0#4 ++ 0xF#4 : BitVec 8) : BitVec 16) from rfl,
    BitVec.and_append, BitVec.and_append, BitVec.and_append]
  simp only [BitVec.and_zero, show ∀ g : Nibble, g &&& 0xF#4 = g by decide]
  revert g n
  decide

/-- Masking a word of format XNN with the mask of groups E and F. -/
theorem mask_x (g x : Nibble) (nn : Byte) : ((g ++ x ++ nn : BitVec 16) &&& 0xF0FF#16) = g ++ 0x0#4 ++ nn := by
  rw [show (0xF0FF#16 : BitVec 16) = (0xF#4 ++ 0x0#4 ++ 0xFF#8 : BitVec 16) from rfl, BitVec.and_append,
    BitVec.and_append]
  simp only [BitVec.and_zero, show ∀ g : Nibble, g &&& 0xF#4 = g by decide, show ∀ b : Byte, b &&& 0xFF#8 = b by decide]

namespace FixedBits

/-- Some row of the opcode map has the instruction's name, and its word has that row's fixed bits. -/
def Statement (i : Instr) : Prop := ∃ r ∈ opTable, r.name = i.mnemonic ∧ encode i &&& r.mask = r.bits

theorem clearScreen : Statement .clearScreen := ⟨⟨"clear-screen", 0x00E0, 0xFFFF⟩, by decide, rfl, by decide⟩
theorem ret : Statement .ret := ⟨⟨"return", 0x00EE, 0xFFFF⟩, by decide, rfl, by decide⟩
theorem noOp (nnn : Addr) : Statement (.noOp nnn) := ⟨⟨"no-op", 0x0000, 0xF000⟩, by decide, rfl, mask_nnn _ _⟩
theorem jump (nnn : Addr) : Statement (.jump nnn) := ⟨⟨"jump", 0x1000, 0xF000⟩, by decide, rfl, mask_nnn _ _⟩
theorem call (nnn : Addr) : Statement (.call nnn) := ⟨⟨"call", 0x2000, 0xF000⟩, by decide, rfl, mask_nnn _ _⟩
theorem skipEqImm (x : Nibble) (nn : Byte) : Statement (.skipEqImm x nn) :=
  ⟨⟨"skip-eq-imm", 0x3000, 0xF000⟩, by decide, rfl, mask_xnn _ _ _⟩
theorem skipNeqImm (x : Nibble) (nn : Byte) : Statement (.skipNeqImm x nn) :=
  ⟨⟨"skip-neq-imm", 0x4000, 0xF000⟩, by decide, rfl, mask_xnn _ _ _⟩
theorem skipEqReg (x y n : Nibble) : Statement (.skipEqReg x y n) :=
  ⟨⟨"skip-eq-reg", 0x5000, 0xF000⟩, by decide, rfl, mask_xnn _ _ _⟩
theorem setImm (x : Nibble) (nn : Byte) : Statement (.setImm x nn) :=
  ⟨⟨"set-imm", 0x6000, 0xF000⟩, by decide, rfl, mask_xnn _ _ _⟩
theorem addImm (x : Nibble) (nn : Byte) : Statement (.addImm x nn) :=
  ⟨⟨"add-imm", 0x7000, 0xF000⟩, by decide, rfl, mask_xnn _ _ _⟩
theorem setReg (x y : Nibble) : Statement (.setReg x y) :=
  ⟨⟨"set-reg", 0x8000, 0xF00F⟩, by decide, rfl, mask_xyn _ _ _ _⟩
theorem orReg (x y : Nibble) : Statement (.orReg x y) :=
  ⟨⟨"or", 0x8001, 0xF00F⟩, by decide, rfl, mask_xyn _ _ _ _⟩
theorem andReg (x y : Nibble) : Statement (.andReg x y) :=
  ⟨⟨"and", 0x8002, 0xF00F⟩, by decide, rfl, mask_xyn _ _ _ _⟩
theorem xorReg (x y : Nibble) : Statement (.xorReg x y) :=
  ⟨⟨"xor", 0x8003, 0xF00F⟩, by decide, rfl, mask_xyn _ _ _ _⟩
theorem addReg (x y : Nibble) : Statement (.addReg x y) :=
  ⟨⟨"add-reg", 0x8004, 0xF00F⟩, by decide, rfl, mask_xyn _ _ _ _⟩
theorem subReg (x y : Nibble) : Statement (.subReg x y) :=
  ⟨⟨"sub-reg", 0x8005, 0xF00F⟩, by decide, rfl, mask_xyn _ _ _ _⟩
theorem shiftRight (x y : Nibble) : Statement (.shiftRight x y) :=
  ⟨⟨"shift-right", 0x8006, 0xF00F⟩, by decide, rfl, mask_xyn _ _ _ _⟩
theorem subRegRev (x y : Nibble) : Statement (.subRegRev x y) :=
  ⟨⟨"sub-reg-rev", 0x8007, 0xF00F⟩, by decide, rfl, mask_xyn _ _ _ _⟩
theorem shiftLeft (x y : Nibble) : Statement (.shiftLeft x y) :=
  ⟨⟨"shift-left", 0x800E, 0xF00F⟩, by decide, rfl, mask_xyn _ _ _ _⟩
theorem skipNeqReg (x y n : Nibble) : Statement (.skipNeqReg x y n) :=
  ⟨⟨"skip-neq-reg", 0x9000, 0xF000⟩, by decide, rfl, mask_xnn _ _ _⟩
theorem setIndex (nnn : Addr) : Statement (.setIndex nnn) :=
  ⟨⟨"set-index", 0xA000, 0xF000⟩, by decide, rfl, mask_nnn _ _⟩
theorem jumpPlusV0 (nnn : Addr) : Statement (.jumpPlusV0 nnn) :=
  ⟨⟨"jump-plus-v0", 0xB000, 0xF000⟩, by decide, rfl, mask_nnn _ _⟩
theorem randomAnd (x : Nibble) (nn : Byte) : Statement (.randomAnd x nn) :=
  ⟨⟨"random-and", 0xC000, 0xF000⟩, by decide, rfl, mask_xnn _ _ _⟩
theorem drawSprite (x y n : Nibble) : Statement (.drawSprite x y n) :=
  ⟨⟨"draw-sprite", 0xD000, 0xF000⟩, by decide, rfl, mask_xnn _ _ _⟩
theorem skipIfKeyPressed (x : Nibble) : Statement (.skipIfKeyPressed x) :=
  ⟨⟨"skip-if-key-pressed", 0xE09E, 0xF0FF⟩, by decide, rfl, mask_x _ _ _⟩
theorem skipIfKeyNotPressed (x : Nibble) : Statement (.skipIfKeyNotPressed x) :=
  ⟨⟨"skip-if-key-not-pressed", 0xE0A1, 0xF0FF⟩, by decide, rfl, mask_x _ _ _⟩
theorem getDelayTimer (x : Nibble) : Statement (.getDelayTimer x) :=
  ⟨⟨"get-delay-timer", 0xF007, 0xF0FF⟩, by decide, rfl, mask_x _ _ _⟩
theorem waitKey (x : Nibble) : Statement (.waitKey x) :=
  ⟨⟨"wait-key", 0xF00A, 0xF0FF⟩, by decide, rfl, mask_x _ _ _⟩
theorem setDelayTimer (x : Nibble) : Statement (.setDelayTimer x) :=
  ⟨⟨"set-delay-timer", 0xF015, 0xF0FF⟩, by decide, rfl, mask_x _ _ _⟩
theorem setSoundTimer (x : Nibble) : Statement (.setSoundTimer x) :=
  ⟨⟨"set-sound-timer", 0xF018, 0xF0FF⟩, by decide, rfl, mask_x _ _ _⟩
theorem addToIndex (x : Nibble) : Statement (.addToIndex x) :=
  ⟨⟨"add-to-index", 0xF01E, 0xF0FF⟩, by decide, rfl, mask_x _ _ _⟩
theorem fontCharAddress (x : Nibble) : Statement (.fontCharAddress x) :=
  ⟨⟨"font-char-address", 0xF029, 0xF0FF⟩, by decide, rfl, mask_x _ _ _⟩
theorem storeBcd (x : Nibble) : Statement (.storeBcd x) :=
  ⟨⟨"store-bcd", 0xF033, 0xF0FF⟩, by decide, rfl, mask_x _ _ _⟩
theorem regDump (x : Nibble) : Statement (.regDump x) :=
  ⟨⟨"reg-dump", 0xF055, 0xF0FF⟩, by decide, rfl, mask_x _ _ _⟩
theorem regLoad (x : Nibble) : Statement (.regLoad x) :=
  ⟨⟨"reg-load", 0xF065, 0xF0FF⟩, by decide, rfl, mask_x _ _ _⟩

end FixedBits

end Sys2Proof.Laws
end

