-- ==== Sys2Proof/Laws/Step.lean ====
section
/-! SUPPORT. Everything a cycle and a step can do, said once: the inversion lemmas that claims about the whole machine
are derived from. -/

namespace Sys2Proof.Machine

variable {s t : State}

/-- A fetch inside memory gives the two bytes at PC (R200). -/
theorem fetch_ok (h : s.pc.toNat + 1 < memSize) :
    fetch s = .ok (wordOfBytes (s.byteAt s.pc.toNat) (s.byteAt (s.pc.toNat + 1))) := if_pos h

/-- A fetch outside memory raises (R232). -/
theorem fetch_fault (h : memSize ≤ s.pc.toNat + 1) :
    fetch s = .error (.memoryFault .fetch (max s.pc.toNat memSize)) := if_neg (by omega)

/-- A fetch that succeeds was inside memory. -/
theorem fetch_inside {w : Word} (h : fetch s = .ok w) : s.pc.toNat + 1 < memSize := by
  by_contra hc
  rw [fetch_fault (by omega)] at h
  cases h

/-- Everything a cycle can do (R200, R239): nothing while faulted or halted; an exception at fetch or decode; or the
handler of the decoded instruction. -/
theorem cycle_cases (h : cycle s = .next t) :
    (s.fault ≠ none ∧ t = s) ∨ (s.fault = none ∧ s.halt = true ∧ t = s) ∨
      (s.fault = none ∧ s.halt = false ∧
        ((memSize ≤ s.pc.toNat + 1 ∧ t = faulted s (.memoryFault .fetch (max s.pc.toNat memSize))) ∨
          (∃ w, fetch s = .ok w ∧ decode w = .error (.unsupported w) ∧ t = faulted s (.unsupportedInstruction w)) ∨
          (∃ w i, fetch s = .ok w ∧ decode w = .ok i ∧ exec i s = .next t))) := by
  simp only [cycle] at h
  split at h
  · rename_i hf
    injection h with h
    exact .inl ⟨by intro hn; simp [hn] at hf, h.symm⟩
  · rename_i hf
    have hf : s.fault = none := by simpa using hf
    split at h
    · rename_i hh
      injection h with h
      exact .inr (.inl ⟨hf, hh, h.symm⟩)
    · rename_i hh
      refine .inr (.inr ⟨hf, by simpa using hh, ?_⟩)
      by_cases hp : s.pc.toNat + 1 < memSize
      · rw [fetch_ok hp] at h
        simp only at h
        cases hd : decode (wordOfBytes (s.byteAt s.pc.toNat) (s.byteAt (s.pc.toNat + 1))) with
        | error r =>
          have := decode_error hd
          subst this
          rw [hd] at h
          injection h with h
          exact .inr (.inl ⟨_, fetch_ok hp, hd, h.symm⟩)
        | ok i =>
          rw [hd] at h
          exact .inr (.inr ⟨_, i, fetch_ok hp, hd, h⟩)
      · rw [fetch_fault (by omega)] at h
        injection h with h
        exact .inl ⟨by omega, h.symm⟩

/-- A cycle that runs an instruction is its handler (R200). -/
theorem cycle_exec {w : Word} {i : Instr} (hf : s.fault = none) (hh : s.halt = false) (hw : fetch s = .ok w)
    (hd : decode w = .ok i) : cycle s = exec i s := by
  simp [cycle, hf, hh, hw, hd]

/-- Everything a step can do: take the next event and deliver it (R208). -/
theorem step_eq (s : State) : step s = deliver (nextEvent s).1 (nextEvent s).2 := rfl

/-- With no event waiting the next one is a cycle with a free byte. -/
theorem nextEvent_nil (h : s.io.events = []) :
    nextEvent s = (.cycle (Config.freeRnd s.io.draws), s.setIo { s.io with draws := s.io.draws + 1 }) := by
  simp [nextEvent, h]

/-- The oldest waiting event is the next one. -/
theorem nextEvent_cons {e : Event} {rest : List Event} (h : s.io.events = e :: rest) :
    nextEvent s = (e, s.setIo { s.io with events := rest }) := by
  simp [nextEvent, h]

/-- Taking an event changes nothing but the record of inputs, and sends nothing. -/
theorem nextEvent_state (s : State) :
    ∃ io : Io, (nextEvent s).2 = s.setIo io ∧ io.out = s.io.out ∧ io.rnd = s.io.rnd := by
  cases h : s.io.events with
  | nil => exact ⟨{ s.io with draws := s.io.draws + 1 }, by rw [nextEvent_nil h], rfl, rfl⟩
  | cons e rest => exact ⟨{ s.io with events := rest }, by rw [nextEvent_cons h], rfl, rfl⟩

end Sys2Proof.Machine
end

