-- ==== Sys2Proof/Laws/Words.lean ====
section
/-! SUPPORT. The fields of words written as the instruction rules write them, an opcode with its operands put in by
`|||` and shifts: each field of a union is the union of the fields, and each shifted operand fills its own field. -/

namespace Sys2Proof

/-! ### Unions -/

@[simp] theorem groupOf_or (a b : Word) : groupOf (a ||| b) = groupOf a ||| groupOf b := by
  simp [groupOf, BitVec.extractLsb'_or]
@[simp] theorem fieldX_or (a b : Word) : fieldX (a ||| b) = fieldX a ||| fieldX b := by
  simp [fieldX, BitVec.extractLsb'_or]
@[simp] theorem fieldY_or (a b : Word) : fieldY (a ||| b) = fieldY a ||| fieldY b := by
  simp [fieldY, BitVec.extractLsb'_or]
@[simp] theorem fieldN_or (a b : Word) : fieldN (a ||| b) = fieldN a ||| fieldN b := by
  simp [fieldN, BitVec.extractLsb'_or]
@[simp] theorem fieldNN_or (a b : Word) : fieldNN (a ||| b) = fieldNN a ||| fieldNN b := by
  simp [fieldNN, BitVec.extractLsb'_or]
@[simp] theorem fieldNNN_or (a b : Word) : fieldNNN (a ||| b) = fieldNNN a ||| fieldNNN b := by
  simp [fieldNNN, BitVec.extractLsb'_or]

/-! ### Operands in their places -/

@[simp] theorem groupOf_x8 (x : Nibble) : groupOf (x.setWidth 16 <<< 8) = 0 := by revert x; decide
@[simp] theorem fieldX_x8 (x : Nibble) : fieldX (x.setWidth 16 <<< 8) = x := by revert x; decide
@[simp] theorem fieldY_x8 (x : Nibble) : fieldY (x.setWidth 16 <<< 8) = 0 := by revert x; decide
@[simp] theorem fieldN_x8 (x : Nibble) : fieldN (x.setWidth 16 <<< 8) = 0 := by revert x; decide
@[simp] theorem fieldNN_x8 (x : Nibble) : fieldNN (x.setWidth 16 <<< 8) = 0 := by revert x; decide
@[simp] theorem groupOf_y4 (x : Nibble) : groupOf (x.setWidth 16 <<< 4) = 0 := by revert x; decide
@[simp] theorem fieldX_y4 (x : Nibble) : fieldX (x.setWidth 16 <<< 4) = 0 := by revert x; decide
@[simp] theorem fieldY_y4 (x : Nibble) : fieldY (x.setWidth 16 <<< 4) = x := by revert x; decide
@[simp] theorem fieldN_y4 (x : Nibble) : fieldN (x.setWidth 16 <<< 4) = 0 := by revert x; decide
@[simp] theorem groupOf_n0 (x : Nibble) : groupOf (x.setWidth 16) = 0 := by revert x; decide
@[simp] theorem fieldX_n0 (x : Nibble) : fieldX (x.setWidth 16) = 0 := by revert x; decide
@[simp] theorem fieldY_n0 (x : Nibble) : fieldY (x.setWidth 16) = 0 := by revert x; decide
@[simp] theorem fieldN_n0 (x : Nibble) : fieldN (x.setWidth 16) = x := by revert x; decide
@[simp] theorem groupOf_nn (x : Byte) : groupOf (x.setWidth 16) = 0 := by revert x; decide
@[simp] theorem fieldX_nn (x : Byte) : fieldX (x.setWidth 16) = 0 := by revert x; decide
@[simp] theorem fieldNN_nn (x : Byte) : fieldNN (x.setWidth 16) = x := by revert x; decide
@[simp] theorem groupOf_addr (x : Addr) : groupOf (x.setWidth 16) = 0 := by ext k hk; simp [groupOf]
@[simp] theorem fieldNNN_addr (x : Addr) : fieldNNN (x.setWidth 16) = x := by ext k hk; simp [fieldNNN, hk]; omega

end Sys2Proof
end

