-- ==== Sys2Proof/Tests/Slice0.lean ====
section
/-! SUPPORT. The model's own tests. Expected results are worked from the rules, most of them the vectors of
spec/95_test_vectors.md (their ids stand in the comments). The witnesses of the last section show, for each statement of
Certificates/Slice0/Obligations.lean with hypotheses, a state and operands that meet all of them. -/

namespace Sys2Proof.Tests

open Sys2Proof.Machine

/-! ### Helpers -/

/-- What one reads of a result's next state. -/
def see {α : Type} (f : State → α) (r : Result) : Option α :=
  match r with
  | .next t => some (f t)
  | .fault _ => none
  | .refused _ => none

/-- One step on a word placed at PC. -/
def ran (s : State) (w : Nat) : Result := step (s.withFetchWord 16 w)

/-- The state with these events waiting. -/
def waiting (s : State) (es : List Event) : State := s.setIo { s.io with events := es }

/-- The reset state. -/
abbrev r0 : State := State.reset
/-- The reset state with V1 and V2 set. -/
def v12 (a b : Byte) : State := (r0.setV 1 a).setV 2 b
/-- The reset state with other display modes. -/
def mode (vf : DrawVfMode) (oob : DrawOob) : State :=
  { State.reset with cfg := { decidedConfig with drawVf := vf, drawOob := oob } }
/-- The reset state with another grid, wrapping. -/
def grid (cols rows : Nat) (vf : DrawVfMode) : State :=
  { State.reset with cfg := { decidedConfig with cols := cols, rows := rows, drawVf := vf } }
/-- PC, the latch and what was sent. -/
def pcFaultOut (t : State) : Word × Option Exception × List Output := (t.pc, t.fault, t.io.out)
/-- PC and I. -/
def pcI (t : State) : Word × Word := (t.pc, t.i)
/-- Two registers. -/
def regs2 (x y : Nibble) (t : State) : Byte × Byte := (t.getV x, t.getV y)

/-! ### Well-formedness: the two words that no-op does not own (R88) are refused, their neighbours are not -/

theorem test_wf_noop_clear_refused : (Instr.noOp 0x0E0).wellFormed = false := by decide
theorem test_wf_noop_return_refused : (Instr.noOp 0x0EE).wellFormed = false := by decide
theorem test_wf_noop_neighbours :
    (Instr.noOp 0x0E1).wellFormed = true ∧ (Instr.noOp 0xFEE).wellFormed = true := by decide
theorem test_wf_aliases_accepted : (Instr.skipEqReg 1 2 15).wellFormed = true ∧
    (Instr.shiftLeft 1 2).wellFormed = true := by decide

/-! ### Decoding: one word of every constructor, its bits written out from the patterns of R89 -/

theorem test_decode_clearScreen :
    decodeTableWord 16 0b0000000011100000 = some .clearScreen := by decide
theorem test_decode_ret :
    decodeTableWord 16 0b0000000011101110 = some .ret := by decide
theorem test_decode_noOp :
    decodeTableWord 16 0b0000000100100011 = some (.noOp 0x123) := by decide
theorem test_decode_jump :
    decodeTableWord 16 0b0001001000001000 = some (.jump 0x208) := by decide
theorem test_decode_call :
    decodeTableWord 16 0b0010001100000001 = some (.call 0x301) := by decide
theorem test_decode_skipEqImm :
    decodeTableWord 16 0b0011000000001010 = some (.skipEqImm 0 0x0A) := by decide
theorem test_decode_skipNeqImm :
    decodeTableWord 16 0b0100001100010001 = some (.skipNeqImm 3 0x11) := by decide
theorem test_decode_skipEqReg :
    decodeTableWord 16 0b0101000100101111 = some (.skipEqReg 1 2 15) := by decide
theorem test_decode_setImm :
    decodeTableWord 16 0b0110111100110011 = some (.setImm 15 0x33) := by decide
theorem test_decode_addImm :
    decodeTableWord 16 0b0111000000000001 = some (.addImm 0 0x01) := by decide
theorem test_decode_setReg :
    decodeTableWord 16 0b1000000100100000 = some (.setReg 1 2) := by decide
theorem test_decode_orReg :
    decodeTableWord 16 0b1000000100100001 = some (.orReg 1 2) := by decide
theorem test_decode_andReg :
    decodeTableWord 16 0b1000000100100010 = some (.andReg 1 2) := by decide
theorem test_decode_xorReg :
    decodeTableWord 16 0b1000000100100011 = some (.xorReg 1 2) := by decide
theorem test_decode_addReg :
    decodeTableWord 16 0b1000101010110100 = some (.addReg 10 11) := by decide
theorem test_decode_subReg :
    decodeTableWord 16 0b1000000100100101 = some (.subReg 1 2) := by decide
theorem test_decode_shiftRight :
    decodeTableWord 16 0b1000000100100110 = some (.shiftRight 1 2) := by decide
theorem test_decode_subRegRev :
    decodeTableWord 16 0b1000000100100111 = some (.subRegRev 1 2) := by decide
theorem test_decode_shiftLeft :
    decodeTableWord 16 0b1000000100101110 = some (.shiftLeft 1 2) := by decide
theorem test_decode_skipNeqReg :
    decodeTableWord 16 0b1001000100100111 = some (.skipNeqReg 1 2 7) := by decide
theorem test_decode_setIndex :
    decodeTableWord 16 0b1010001011110000 = some (.setIndex 0x2F0) := by decide
theorem test_decode_jumpPlusV0 :
    decodeTableWord 16 0b1011001100000000 = some (.jumpPlusV0 0x300) := by decide
theorem test_decode_randomAnd :
    decodeTableWord 16 0b1100000100001111 = some (.randomAnd 1 0x0F) := by decide
theorem test_decode_drawSprite :
    decodeTableWord 16 0b1101000000010101 = some (.drawSprite 0 1 5) := by decide
theorem test_decode_skipIfKeyPressed :
    decodeTableWord 16 0b1110001010011110 = some (.skipIfKeyPressed 2) := by decide
theorem test_decode_skipIfKeyNotPressed :
    decodeTableWord 16 0b1110001010100001 = some (.skipIfKeyNotPressed 2) := by decide
theorem test_decode_getDelayTimer :
    decodeTableWord 16 0b1111010000000111 = some (.getDelayTimer 4) := by decide
theorem test_decode_waitKey :
    decodeTableWord 16 0b1111001100001010 = some (.waitKey 3) := by decide
theorem test_decode_setDelayTimer :
    decodeTableWord 16 0b1111010000010101 = some (.setDelayTimer 4) := by decide
theorem test_decode_setSoundTimer :
    decodeTableWord 16 0b1111010000011000 = some (.setSoundTimer 4) := by decide
theorem test_decode_addToIndex :
    decodeTableWord 16 0b1111001000011110 = some (.addToIndex 2) := by decide
theorem test_decode_fontCharAddress :
    decodeTableWord 16 0b1111001100101001 = some (.fontCharAddress 3) := by decide
theorem test_decode_storeBcd :
    decodeTableWord 16 0b1111010000110011 = some (.storeBcd 4) := by decide
theorem test_decode_regDump :
    decodeTableWord 16 0b1111001001010101 = some (.regDump 2) := by decide
theorem test_decode_regLoad :
    decodeTableWord 16 0b1111001001100101 = some (.regLoad 2) := by decide

/-- R88: neighbours of the two fixed words of group 0 are no-ops (T-ENC-6). -/
theorem test_decode_group0_neighbours : [0x0000, 0x00E1, 0x01E0, 0x0FEE].map (decodeTableWord 16)
    = [some (.noOp 0x000), some (.noOp 0x0E1), some (.noOp 0x1E0), some (.noOp 0xFEE)] := by decide
/-- R91: samples of unsupported words (T-ENC-9). -/
theorem test_decode_unsupported : [0x8128, 0x8129, 0x812A, 0x812B, 0x812C, 0x812D, 0x812F, 0xE000, 0xE29F, 0xE09D,
    0xF000, 0xF20B, 0xF2FF].map (decodeTableWord 16) = List.replicate 13 none := by decide
/-- R52: the byte at the lower address is the high byte (T-ENC-11). -/
theorem test_decode_byte_order : decodeBytes [0x12, 0x08, 0xAA] = .ok (.jump 0x208, [0xAA]) := by decide
/-- R80: fewer than two bytes are no instruction. -/
theorem test_decode_truncated : decodeBytes [0x12] = .error .truncated := by decide
/-- The encoder writes the same bytes. -/
theorem test_encode_bytes : encodeBytes (.drawSprite 0 1 5) = [0xD0, 0x15] := by decide
/-- R96: the assembler's spelling, ignored nibbles left out. -/
theorem test_asm : (Instr.drawSprite 0 1 5).toAsm = "draw-sprite V0, V1, 0x5" ∧
    (Instr.skipEqReg 1 2 15).toAsm = "skip-eq-reg V1, V2" ∧ Instr.clearScreen.toAsm = "clear-screen" := by decide

/-! ### Control flow -/

/-- T-CF-3. -/
theorem test_ret_pops :
    see (fun t => (t.pc, t.sp)) (ran (((r0.setPc 0x300).setSp 15).setStack 14 0x21E) 0x00EE)
      = some (0x21E, 14) := by decide
/-- T-CF-2. -/
theorem test_ret_underflow :
    see pcFaultOut (ran (r0.setPc 0x300) 0x00EE)
      = some (0x300, some (.memoryFault .stackUnderflow 0), [.fault (.memoryFault .stackUnderflow 0)]) := by decide
/-- T-CF-6: no return. -/
theorem test_noOp :
    see (fun t => (t.pc, t.sp)) (ran ((r0.setSp 1).setStack 0 0x300) 0x0FEE)
      = some (0x202, 1) := by decide
/-- T-CF-8. -/
theorem test_jump : see pcFaultOut (ran r0 0x1FFF) = some (0xFFF, none, []) := by decide
/-- T-CF-11. -/
theorem test_call_pushes :
    see (fun t => (t.pc, t.sp, t.getStack 14)) (ran ((r0.setPc 0xFFE).setSp 14) 0x2300)
      = some (0x300, 15, 0x1000) := by decide
/-- T-CF-12. -/
theorem test_call_overflow :
    see pcFaultOut (ran (r0.setSp 15) 0x2300)
      = some (0x200, some (.memoryFault .stackOverflow 15), [.fault (.memoryFault .stackOverflow 15)]) := by decide
/-- T-CF-26. -/
theorem test_skipEqImm_taken : see State.pc (ran (r0.setPc 0xFFE) 0x3000) = some 0x1002 := by decide
/-- T-CF-14. -/
theorem test_skipEqImm_not_taken : see State.pc (ran ((r0.setPc 0x204).setV 0 0x09) 0x300A) = some 0x206 := by decide
/-- T-CF-15. -/
theorem test_skipNeqImm_taken : see State.pc (ran ((r0.setPc 0x210).setV 3 0x10) 0x4311) = some 0x214 := by decide
/-- T-CF-16. -/
theorem test_skipNeqImm_not_taken : see State.pc (ran ((r0.setPc 0x210).setV 3 0x10) 0x4310) = some 0x212 := by decide
/-- T-CF-18. -/
theorem test_skipEqReg_taken : see State.pc (ran ((v12 7 7).setPc 0x220) 0x512F) = some 0x224 := by decide
/-- T-CF-19. -/
theorem test_skipEqReg_not_taken : see State.pc (ran ((v12 7 8).setPc 0x220) 0x5120) = some 0x222 := by decide
/-- T-CF-21. -/
theorem test_skipNeqReg_taken : see State.pc (ran ((v12 7 8).setPc 0x220) 0x9120) = some 0x224 := by decide
/-- T-CF-22. -/
theorem test_skipNeqReg_not_taken : see State.pc (ran ((v12 7 7).setPc 0x220) 0x9127) = some 0x222 := by decide
/-- T-CF-25. -/
theorem test_jumpPlusV0 : see State.pc (ran (r0.setV 0 0xFF) 0xBFFF) = some 0x10FE := by decide

/-! ### Registers and arithmetic -/

/-- T-ALU-2. -/
theorem test_setImm : see (fun t => (t.getV 15, t.pc)) (ran r0 0x6F33) = some (0x33, 0x202) := by decide
/-- T-ALU-4. -/
theorem test_addImm_wraps_no_flag :
    see (regs2 0 15) (ran ((r0.setV 0 0xFF).setV 15 0x07) 0x7001)
      = some (0x00, 0x07) := by decide
/-- T-ALU-5. -/
theorem test_addImm_vf : see (State.getV · 15) (ran (r0.setV 15 0x02) 0x7FFF) = some 0x01 := by decide
/-- T-ALU-6. -/
theorem test_setReg : see (regs2 1 2) (ran (v12 0 0x33) 0x8120) = some (0x33, 0x33) := by decide
/-- T-ALU-7. -/
theorem test_orReg : see (regs2 1 15) (ran ((v12 0xF0 0x0F).setV 15 0x09) 0x8121) = some (0xFF, 0x09) := by decide
/-- T-ALU-8. -/
theorem test_andReg : see (regs2 1 15) (ran ((v12 0xF0 0x3C).setV 15 0x09) 0x8122) = some (0x30, 0x09) := by decide
/-- T-ALU-9. -/
theorem test_xorReg : see (regs2 1 15) (ran ((v12 0xF0 0x3C).setV 15 0x09) 0x8123) = some (0xCC, 0x09) := by decide
/-- T-ALU-12. -/
theorem test_addReg_carry : see (regs2 1 15) (ran (v12 0xFF 0x01) 0x8124) = some (0x00, 0x01) := by decide
/-- T-ALU-16. -/
theorem test_addReg_into_vf :
    see (State.getV · 15) (ran ((r0.setV 15 0xC8).setV 1 0x64) 0x8F14)
      = some 0x2C := by decide
/-- T-ALU-20. -/
theorem test_subReg_borrow :
    see (regs2 1 15) (ran ((v12 0x10 0x30).setV 15 0x01) 0x8125)
      = some (0xE0, 0x00) := by decide
/-- T-ALU-21. -/
theorem test_subReg_equal_no_borrow : see (regs2 1 15) (ran (v12 0x42 0x42) 0x8125) = some (0x00, 0x01) := by decide
/-- T-ALU-26. -/
theorem test_shiftRight_ignores_y :
    see (regs2 1 15) (ran ((v12 0x04 0xFF).setV 15 0x01) 0x8126)
      = some (0x02, 0x00) := by decide
/-- T-ALU-28b. -/
theorem test_shiftRight_into_vf : see (State.getV · 15) (ran (r0.setV 15 0x02) 0x8F06) = some 0x01 := by decide
/-- T-ALU-29. -/
theorem test_subRegRev_no_borrow : see (regs2 1 15) (ran (v12 0x10 0x30) 0x8127) = some (0x20, 0x01) := by decide
/-- T-ALU-32. -/
theorem test_subRegRev_into_vf : see (State.getV · 15) (ran (r0.setV 15 0x01) 0x8F17) = some 0xFF := by decide
/-- T-ALU-33. -/
theorem test_shiftLeft_out : see (regs2 1 15) (ran (v12 0xC1 0xFF) 0x812E) = some (0x82, 0x01) := by decide
/-- T-ALU-36. -/
theorem test_shiftLeft_into_vf : see (State.getV · 15) (ran (r0.setV 15 0x81) 0x8F0E) = some 0x02 := by decide
/-- T-ALU-37. -/
theorem test_randomAnd :
    see (State.getV · 1) (step (waiting (r0.withFetchWord 16 0xC10F) [.cycle 0xB7]))
      = some 0x07 := by decide
/-- T-ALU-38. -/
theorem test_randomAnd_zero_mask :
    see (State.getV · 1) (step (waiting ((r0.setV 1 0x55).withFetchWord 16 0xC100) [.cycle 0xFF]))
      = some 0x00 := by decide

/-! ### Index and memory -/

/-- T-MEM-1. -/
theorem test_setIndex : see pcI (ran r0 0xA2F0) = some (0x202, 0x2F0) := by decide
/-- T-MEM-3. -/
theorem test_addToIndex_past_memory :
    see pcI (ran ((r0.setI 0x0FFF).setV 2 0x01) 0xF21E)
      = some (0x202, 0x1000) := by decide
/-- T-MEM-4. -/
theorem test_addToIndex_wraps_no_flag :
    see (fun t => (t.i, t.getV 15)) (ran (((r0.setI 0xFFFF).setV 2 0x01).setV 15 0x05) 0xF21E)
      = some (0x0000, 0x05) := by decide
/-- T-MEM-6. -/
theorem test_fontCharAddress : see pcI (ran (r0.setV 3 0x0F) 0xF329) = some (0x202, 0x004B) := by decide
/-- T-MEM-8. -/
theorem test_fontCharAddress_all_bits : see pcI (ran (r0.setV 3 0xFF) 0xF329) = some (0x202, 0x04FB) := by decide
/-- T-MEM-12. -/
theorem test_storeBcd_top :
    see (State.bytesAt · 0xFFD 3) (ran ((r0.setI 0xFFD).setV 4 0x7B) 0xF433)
      = some [1, 2, 3] := by decide
/-- T-MEM-13. -/
theorem test_storeBcd_fault :
    see (fun t => (t.pc, t.fault, t.bytesAt 0xFFE 2)) (ran ((r0.setI 0xFFE).setV 4 0x7B) 0xF433)
      = some (0x200, some (.memoryFault .dataWrite 4096), [0, 0]) := by decide
/-- T-MEM-15. -/
theorem test_regDump :
    see (fun t => (t.bytesAt 0x400 4, t.i)) (ran ((((v12 0x22 0x33).setV 0 0x11).setV 3 0x44).setI 0x400) 0xF255)
      = some ([0x11, 0x22, 0x33, 0x00], 0x400) := by decide
/-- T-MEM-17. -/
theorem test_regDump_fault :
    see (fun t => (t.fault, t.byteAt 0xFFF)) (ran (((r0.setV 0 0xAB).setV 1 0xCD).setI 0xFFF) 0xF155)
      = some (some (.memoryFault .dataWrite 4096), 0x00) := by decide
/-- T-MEM-20. -/
theorem test_regLoad :
    see (fun t => (t.getV 0, t.getV 1, t.getV 2, t.getV 3))
    (ran (((r0.writeBytes 0x400 [0x11, 0x22, 0x33, 0x44]).setI 0x400).setV 3 0x99) 0xF265)
      = some (0x11, 0x22, 0x33, 0x99) := by decide
/-- T-MEM-21. -/
theorem test_regLoad_font :
    see (fun t => (t.getV 0, t.getV 1, t.getV 9, t.getV 15)) (ran r0 0xFF65)
      = some (0xF0, 0x90, 0x70, 0xF0) := by decide

/-! ### Display -/

/-- T-DSP-1. -/
theorem test_clearScreen :
    see (fun t => (t.display, t.getV 15, t.io.out, t.pc))
    (ran ((r0.setDisplay [⟨0, 0⟩, ⟨63, 31⟩]).setV 15 0x01) 0x00E0)
      = some ([], 0x01, [.render], 0x202) := by decide
/-- Scenario 2 of the source (L1-2), and one byte too many (T-DSP-20). -/
theorem test_drawSprite_glyph_and_fault :
    see (fun t => (t.display, t.getV 15, t.io.out)) (ran ((r0.setV 0 5).setV 1 5) 0xD015)
      = some ([⟨5, 5⟩, ⟨6, 5⟩, ⟨7, 5⟩, ⟨8, 5⟩, ⟨5, 6⟩, ⟨8, 6⟩, ⟨5, 7⟩, ⟨8, 7⟩,
          ⟨5, 8⟩, ⟨8, 8⟩, ⟨5, 9⟩, ⟨6, 9⟩, ⟨7, 9⟩, ⟨8, 9⟩], 0, [.render]) ∧
    see (fun t => (t.pc, t.fault, t.getV 15)) (ran ((r0.setI 0xFF2).setV 15 3) 0xD00F)
      = some (0x200, some (.memoryFault .dataRead 4096), 3) := by decide
/-- `last` and `or` differ on a first pixel erased and a second one set (T-DSP-6, T-DSP-7); `wrap` and `drop` at the
right edge (T-DSP-9, T-DSP-10); no row reads nothing, `last` leaves VF, `or` clears it (T-DSP-3, T-DSP-21); a grid of 16 by 8
(T-DSP-24). -/
theorem test_drawSprite_modes :
    [mode .last .wrap, mode .or .wrap].map (fun s => see (fun t => (t.display, t.getV 15))
        (ran (((s.writeBytes 0x300 [0xC0]).setI 0x300).setDisplay [⟨0, 0⟩]) 0xD011))
      = [some ([⟨1, 0⟩], 0), some ([⟨1, 0⟩], 1)] ∧
    [mode .last .wrap, mode .last .drop].map (fun s => see State.display
        (ran (((s.writeBytes 0x300 [0xFF]).setI 0x300).setV 0 62) 0xD011))
      = [some [⟨0, 0⟩, ⟨1, 0⟩, ⟨2, 0⟩, ⟨3, 0⟩, ⟨4, 0⟩, ⟨5, 0⟩, ⟨62, 0⟩, ⟨63, 0⟩],
          some [⟨62, 0⟩, ⟨63, 0⟩]] ∧
    [mode .last .wrap, mode .or .wrap].map (fun s => see (fun t => (t.fault, t.getV 15, t.io.out))
        (ran ((s.setI 0x1000).setV 15 3) 0xD000))
      = [some (none, 3, [.render]), some (none, 0, [.render])] ∧
    see State.display (ran (((grid 16 8 .last).setV 0 5).setV 1 5) 0xD015)
      = some [⟨5, 0⟩, ⟨8, 0⟩, ⟨5, 1⟩, ⟨6, 1⟩, ⟨7, 1⟩, ⟨8, 1⟩, ⟨5, 5⟩, ⟨6, 5⟩, ⟨7, 5⟩, ⟨8, 5⟩,
          ⟨5, 6⟩, ⟨8, 6⟩, ⟨5, 7⟩, ⟨8, 7⟩] := by decide

/-! ### Keyboard and timers -/

/-- T-KEY-1. -/
theorem test_skipIfKeyPressed :
    see State.pc (ran (((r0.setPc 0x230).setV 2 5).setKey 5 true) 0xE29E)
      = some 0x234 := by decide
/-- T-KEY-5. -/
theorem test_skipIfKeyPressed_fault :
    see pcFaultOut (ran ((r0.setV 2 0x10).setKey 0 true) 0xE29E)
      = some (0x200, some (.memoryFault .keyIndex 16), [.fault (.memoryFault .keyIndex 16)]) := by decide
/-- T-KEY-3. -/
theorem test_skipIfKeyNotPressed : see State.pc (ran ((r0.setPc 0x230).setV 2 5) 0xE2A1) = some 0x234 := by decide
/-- T-KEY-6. -/
theorem test_skipIfKeyNotPressed_fault :
    see State.fault (ran (r0.setV 2 0xFF) 0xE2A1)
      = some (some (.memoryFault .keyIndex 255)) := by decide
/-- T-KEY-8. -/
theorem test_getDelayTimer :
    see (fun t => (t.getV 4, t.dt)) (ran (r0.setDt 0x2C) 0xF407)
      = some (0x2C, 0x2C) := by decide
/-- T-KEY-9. -/
theorem test_setDelayTimer :
    see (fun t => (t.dt, t.io.out)) (ran (r0.setV 4 0x3C) 0xF415)
      = some (0x3C, []) := by decide
/-- T-KEY-10. -/
theorem test_setSoundTimer :
    see (fun t => (t.st, t.io.out)) (ran (r0.setV 4 0x05) 0xF418)
      = some (0x05, []) := by decide
/-- T-KEY-11. -/
theorem test_waitKey :
    see (fun t => (t.halt, t.waitX, t.pc, t.getV 3)) (ran (r0.setKey 7 true) 0xF30A)
      = some (true, 3, 0x202, 0) := by decide

/-! ### The other events -/

/-- The reset state, halted by FF0A. -/
def halted : State := ((r0.setPc 0x202).setHalt true).setWaitX 15
/-- The reset state, faulted by the word 8128. -/
def stuck : State := (v12 1 2).setFault (.unsupportedInstruction 0x8128)

/-- T-TICK-1. -/
theorem test_tick_last_sound :
    see (fun t => (t.st, t.io.out)) (step (waiting (r0.setSt 1) [.tick]))
      = some (0, [.soundOff]) := by decide
/-- T-KEY-12, L1-5. -/
theorem test_tick_halted :
    see (fun t => (t.dt, t.st, t.halt, t.io.out)) (step (waiting ((halted.setDt 2).setSt 5) [.tick]))
      = some (1, 4, true, [.soundOn]) := by decide
/-- T-KEY-13. -/
theorem test_key_press_ends_wait :
    see (fun t => (t.getV 15, t.halt, t.pc, t.isPressed 12)) (step (waiting halted [.keyPress 12]))
      = some (0x0C, false, 0x202, true) := by decide
/-- L1-4. -/
theorem test_key_release :
    see (fun t => (t.isPressed 7, t.halt)) (step (waiting (halted.setKey 7 true) [.keyRelease 7]))
      = some (false, true) := by decide
/-- L1-4. -/
theorem test_cycle_halted : see (fun t => (t.pc, t.halt)) (step halted) = some (0x202, true) := by decide
/-- T-ALU-40. -/
theorem test_unsupported :
    see pcFaultOut (ran (v12 1 2) 0x8128)
      = some (0x200, some (.unsupportedInstruction 0x8128), [.fault (.unsupportedInstruction 0x8128)]) := by decide
/-- T-CF-27. -/
theorem test_fetch_fault :
    see pcFaultOut (step (r0.setPc 0xFFF))
      = some (0xFFF, some (.memoryFault .fetch 4096), [.fault (.memoryFault .fetch 4096)]) := by decide
/-- T-CF-25. -/
theorem test_fetch_fault_far :
    see State.fault (step (r0.setPc 0x10FE))
      = some (some (.memoryFault .fetch 4350)) := by decide
/-- T-CF-9. -/
theorem test_fetch_odd :
    see (fun t => (t.pc, t.getV 11)) (step ((r0.writeBytes 0x203 [0x6B, 0x0A]).setPc 0x203))
      = some (0x205, 0x0A) := by decide
/-- T-FLT-1: a faulted core ignores every event but reset. -/
theorem test_faulted_ignores :
    [Event.cycle 0, .tick, .keyPress 3, .keyRelease 3, .load [0x12, 0x00]].all (fun e =>
        see pcFaultOut (step (waiting stuck [e])) == some (0x200, some (.unsupportedInstruction 0x8128), []) &&
        see (fun t => (t.isPressed 3, t.byteAt 0x200)) (step (waiting stuck [e])) == some (false, 0)) = true := by
  decide
/-- T-FLT-2, T-RST-1: reset clears the latch and the registers, keeps the keys, and sends one Render. -/
theorem test_reset :
    see (fun t => (t.fault, t.getV 1, t.pc, t.isPressed 3, t.io.out)) (step (waiting (stuck.setKey 3 true) [.reset]))
      = some (none, 0, 0x200, true, [.render]) := by decide
/-- T-LOAD-1. -/
theorem test_load :
    see (fun t => (t.byteAt 0, t.byteAt 0x100, t.bytesAt 0x200 4, t.getV 3, t.pc))
        (step (waiting (((r0.setV 3 4).setPc 0x300).writeBytes 0x100 [9]) [.load [0x60, 0x01, 0x70]]))
      = some (0xF0, 0, [0x60, 0x01, 0x70, 0], 4, 0x300) := by decide
/-- T-LOAD-3. -/
theorem test_load_too_long : load (List.replicate 3585 0xBB) r0 = r0.emit (.invalidRom 3585) := by
  have h : ¬ State.reset.fault.isSome = true := by decide
  rw [load, if_neg h, if_pos (by rw [List.length_replicate]; decide), List.length_replicate]

/-! ### Witnesses: for every statement with hypotheses, inputs that meet them, one for each clause -/

/-- A memory with two cells off their reset contents. -/
def cells : State := { r0 with mem := [(0x300, 0xC0), (0xFFF, 0x81)] }

theorem cells_memoryCanonical : MemoryCanonical cells := by unfold MemoryCanonical; decide

theorem reset_memoryCanonical (s : State) (h : s.mem = []) : MemoryCanonical s := by
  unfold MemoryCanonical; rw [h]; exact Memory.wf_nil

/-- A display with two lit pixels. -/
def lit2 : State := { r0 with display := [⟨0, 0⟩, ⟨63, 31⟩] }

theorem lit2_displayCanonical : DisplayCanonical lit2 := by unfold DisplayCanonical; decide

theorem reset_displayCanonical : DisplayCanonical r0 := by unfold DisplayCanonical; decide

theorem witness_DecodeEncodeRoundTrip : (Instr.noOp 0x0E1).WellFormed ∧ (Instr.noOp 0xFFF).WellFormed ∧
    (Instr.skipEqReg 15 15 15).WellFormed := by decide

theorem witness_EncodeDecodeRoundTrip : decode 0x0000 = .ok (.noOp 0) ∧ decode 0xFF65 = .ok (.regLoad 15) := by decide

theorem witness_UnsupportedWordsExactly : decode 0x8FFF = .error (.unsupported 0x8FFF) ∧
    decode 0xE0A2 = .error (.unsupported 0xE0A2) ∧ decode 0xF008 = .error (.unsupported 0xF008) ∧
    decode 0x8FFE = .ok (.shiftLeft 15 15) := by decide

theorem witness_IgnoredBitsHaveNoEffect : decode 0x00E1 = .ok (.noOp 0x0E1) ∧ decode 0x00EF = .ok (.noOp 0x0EF) := by
  decide

theorem witness_StepTakesOldestEvent_event : (waiting r0 [.tick, .reset]).io.events = .tick :: [.reset] := rfl
theorem witness_StepTakesOldestEvent_none : r0.io.events = [] := rfl

/-- PC at the last address that has two bytes: the word 0x0081, a no-op. -/
theorem witness_StepRunsDecodedInstruction :
    let s := waiting (cells.setPc 0xFFE) [.cycle 7]
    (nextEvent s).1 = .cycle 7 ∧ s.fault = none ∧ s.halt = false ∧ s.pc.toNat ≤ 4094 ∧
      decode (wordOfBytes (s.byteAt s.pc.toNat) (s.byteAt (s.pc.toNat + 1))) = .ok (.noOp 0x081) := by decide

theorem witness_PlacedWordRunsNext : MemoryCanonical cells ∧ decode 0x1208 = .ok (.jump 0x208) :=
  ⟨cells_memoryCanonical, by decide⟩

theorem witness_HaltedCycleDoesNothing :
    (nextEvent (waiting halted [.cycle 1])).1 = .cycle 1 ∧ (waiting halted [.cycle 1]).fault = none ∧
      (waiting halted [.cycle 1]).halt = true := by decide

theorem witness_FaultedCoreIgnoresEvents :
    (waiting stuck [.tick]).fault ≠ none ∧ (nextEvent (waiting stuck [.tick])).1 ≠ .reset := by decide

theorem witness_FetchOutsideMemoryRaises_inside : (r0.setPc 0xFFE).pc.toNat ≤ 4094 := by decide
theorem witness_FetchOutsideMemoryRaises_last :
    let s := waiting (r0.setPc 0xFFF) [.cycle 0]
    (nextEvent s).1 = .cycle 0 ∧ s.fault = none ∧ s.halt = false ∧ 4094 < s.pc.toNat ∧ s.pc.toNat = 4095 := by decide
theorem witness_FetchOutsideMemoryRaises_beyond :
    let s := waiting (r0.setPc 0x1000) [.cycle 0]
    (nextEvent s).1 = .cycle 0 ∧ s.fault = none ∧ s.halt = false ∧ 4094 < s.pc.toNat ∧ s.pc.toNat ≠ 4095 := by decide

theorem witness_UnsupportedWordRaises :
    let s := waiting (r0.writeBytes 0x200 [0x81, 0x28]) [.cycle 0]
    (nextEvent s).1 = .cycle 0 ∧ s.fault = none ∧ s.halt = false ∧ rejected 0x8128 = true := by decide
theorem witness_UnsupportedWordRaises_fetch :
    fetch (waiting (r0.writeBytes 0x200 [0x81, 0x28]) [.cycle 0]) = .ok 0x8128 := by rfl

theorem witness_ExceptionsArePrecise :
    ∃ t, step (waiting (r0.setPc 0xFFF) [.cycle 0]) = .next t ∧ (waiting (r0.setPc 0xFFF) [.cycle 0]).fault = none ∧
      t.fault = some (.memoryFault .fetch 4096) := ⟨_, rfl, rfl, rfl⟩

/-- Each of the five kinds a handler can raise. -/
theorem witness_HandlerExceptionKinds :
    see State.fault (exec .ret r0) = some (some (.memoryFault .stackUnderflow 0)) ∧
    see State.fault (exec (.call 0x300) (r0.setSp 15)) = some (some (.memoryFault .stackOverflow 15)) ∧
    see State.fault (exec (.skipIfKeyPressed 2) (r0.setV 2 16)) = some (some (.memoryFault .keyIndex 16)) ∧
    see State.fault (exec (.regLoad 0) (r0.setI 0x1000)) = some (some (.memoryFault .dataRead 4096)) ∧
    see State.fault (exec (.storeBcd 0) (r0.setI 0xFFE)) = some (some (.memoryFault .dataWrite 4096)) ∧
    r0.fault = none := by decide

theorem witness_ProgramCounterClasses :
    autoAdvances (.waitKey 3) = true ∧ see State.fault (exec (.waitKey 3) r0) = some none ∧
    autoAdvances (.skipIfKeyPressed 2) = false ∧ (Instr.skipIfKeyPressed 2).mnemonic = "skip-if-key-pressed" ∧
    see State.fault (exec (.skipIfKeyPressed 2) r0) = some none ∧ r0.fault = none := by decide

theorem witness_TickCountsDownAndSounds_runs :
    (waiting (r0.setSt 1) [.tick]).io.events = .tick :: [] ∧ (waiting (r0.setSt 1) [.tick]).fault = none := ⟨rfl, rfl⟩
theorem witness_TickCountsDownAndSounds_faulted :
    (waiting stuck [.tick]).io.events = .tick :: [] ∧ (waiting stuck [.tick]).fault ≠ none := by decide

theorem witness_TicksInARow : (r0.setSt 255).fault = none := rfl

theorem witness_KeyEvents_press :
    (waiting halted [.keyPress 15]).io.events = .keyPress 15 :: [] ∧ (waiting halted [.keyPress 15]).fault = none ∧
      halted.halt = true ∧ halted.waitX = 15 := by decide
theorem witness_KeyEvents_release :
    (waiting r0 [.keyRelease 0]).io.events = .keyRelease 0 :: [] ∧ (waiting r0 [.keyRelease 0]).fault = none := by decide
theorem witness_KeyEvents_faulted :
    (waiting stuck [.keyPress 3]).io.events = .keyPress 3 :: [] ∧ (waiting stuck [.keyPress 3]).fault ≠ none ∧
    (waiting stuck [.keyRelease 3]).io.events = .keyRelease 3 :: [] ∧ (waiting stuck [.keyRelease 3]).fault ≠ none := by
  decide

theorem witness_LoadReplacesMemory_longest (b : Byte) :
    (waiting r0 [.load (List.replicate 3584 b)]).io.events = .load (List.replicate 3584 b) :: [] ∧
      (waiting r0 [.load (List.replicate 3584 b)]).fault = none ∧ (List.replicate 3584 b).length ≤ 3584 :=
  ⟨rfl, rfl, by rw [List.length_replicate]⟩
theorem witness_LoadReplacesMemory_tooLong (b : Byte) :
    (waiting r0 [.load (List.replicate 3585 b)]).io.events = .load (List.replicate 3585 b) :: [] ∧
      (waiting r0 [.load (List.replicate 3585 b)]).fault = none ∧ (List.replicate 3585 b).length > 3584 :=
  ⟨rfl, rfl, by rw [List.length_replicate]; decide⟩
theorem witness_LoadReplacesMemory_faulted :
    (waiting stuck [.load [1]]).io.events = .load [1] :: [] ∧ (waiting stuck [.load [1]]).fault ≠ none := by decide

theorem witness_ResetRestoresEveryPiece : (waiting stuck [.reset]).io.events = .reset :: [] := rfl

theorem witness_PowerOnIsResetWithKeysUp : stuck.cfg = State.reset.cfg ∧ ∃ t, deliver .reset stuck = .next t :=
  ⟨rfl, _, rfl⟩

theorem witness_NoOpAndJumpInstructions : (0x0E1 : Addr) ≠ 0x0E0 ∧ (0x0E1 : Addr) ≠ 0x0EE := by decide

theorem witness_CallInstruction : (r0.setSp 14).sp ≠ 15 ∧ (r0.setSp 15).sp = 15 := by decide
theorem witness_ReturnInstruction : (r0.setSp 1).sp ≠ 0 ∧ (r0.setSp 15).sp ≠ 0 ∧ r0.sp = 0 := by decide

theorem witness_CallThenReturnRestores :
    let s := r0.setSp 14
    let t := ((s.setStack 14 0x202).setSp 15).setPc 0x300
    let u := t.setPc 0x400
    s.sp ≠ 15 ∧ exec (.call 0x300) s = .next t ∧ u.sp = t.sp ∧ u.getStack s.sp = t.getStack s.sp :=
  ⟨by decide, rfl, rfl, rfl⟩

theorem witness_StoreBcdInstruction : MemoryCanonical (r0.setI 0xFFD) ∧ (r0.setI 0xFFD).i.toNat + 2 ≤ 4095 ∧
    4095 < (r0.setI 0xFFE).i.toNat + 2 := ⟨reset_memoryCanonical _ rfl, by decide, by decide⟩
theorem witness_RegDumpInstruction :
    MemoryCanonical (r0.setI 0xFF0) ∧ (r0.setI 0xFF0).i.toNat + (15 : Nibble).toNat ≤ 4095 ∧
    4095 < (r0.setI 0xFF1).i.toNat + (15 : Nibble).toNat := ⟨reset_memoryCanonical _ rfl, by decide, by decide⟩
theorem witness_RegLoadInstruction : (r0.setI 0xFF0).i.toNat + (15 : Nibble).toNat ≤ 4095 ∧
    4095 < (r0.setI 0xFF1).i.toNat + (15 : Nibble).toNat := by decide

theorem witness_StoreSeenByNextFetch :
    let s := r0.setI 0x202
    MemoryCanonical s ∧ s.i.toNat + (1 : Nibble).toNat ≤ 4095 ∧ (0 : Nibble).toNat < (1 : Nibble).toNat ∧
      s.pc.toNat + 2 = s.i.toNat + (0 : Nibble).toNat ∧ ∃ t, exec (.regDump 1) s = .next t :=
  ⟨reset_memoryCanonical _ rfl, by decide, by decide, by decide, _, rfl⟩

theorem witness_CanonicalMemoriesAgree : cells.mem.wf r0.cfg ∧ ∀ a, cells.mem.read r0.cfg a = cells.mem.read r0.cfg a :=
  ⟨cells_memoryCanonical, fun _ => rfl⟩

theorem witness_DrawSpriteCompletesOrRaises :
    (r0.setI 0xFF1).i.toNat + (15 : Nibble).toNat ≤ 4096 ∧
      4096 < (r0.setI 0xFF2).i.toNat + (15 : Nibble).toNat ∧ (15 : Nibble) ≠ 0 := by decide

theorem witness_DrawSpriteFlipsItsPixels :
    DisplayCanonical lit2 ∧ lit2.i.toNat + (5 : Nibble).toNat ≤ 4096 ∧
      (∃ t, exec (.drawSprite 0 1 5) lit2 = .next t) ∧ 8 ≤ lit2.cfg.cols ∧ 15 ≤ lit2.cfg.rows :=
  ⟨lit2_displayCanonical, by decide, ⟨_, rfl⟩, by decide, by decide⟩
/-- The smallest grid, on which all fourteen set bits of glyph 0 land on one pixel. -/
theorem witness_DrawSpriteFlipsItsPixels_small :
    DisplayCanonical (grid 1 1 .last) ∧ (∃ t, exec (.drawSprite 0 1 5) (grid 1 1 .last) = .next t) ∧
      landings (grid 1 1 .last) 0 1 5 ⟨0, 0⟩ = 14 :=
  ⟨by unfold DisplayCanonical; decide, ⟨_, rfl⟩, by decide⟩

theorem witness_SpriteBitPlacement :
    (mode .last .wrap).cfg.drawOob = .wrap ∧ (mode .last .drop).cfg.drawOob = .drop ∧ 8 ≤ r0.cfg.cols ∧
      15 ≤ r0.cfg.rows ∧ place r0.cfg (255 + 7) (255 + 14) = some ⟨6, 13⟩ := by decide

/-- Mode `last`: no set bit, in fifteen rows of zeros and with no row. -/
theorem witness_DrawSpriteFlagModes_last_none :
    (r0.setI 0xFF1).cfg.drawVf = .last ∧ (r0.setI 0xFF1).i.toNat + (15 : Nibble).toNat ≤ 4096 ∧
      (∀ row < (15 : Nibble).toNat, ∀ col < 8, lands (r0.setI 0xFF1) 0 1 row col = none) ∧
      (∃ t, exec (.drawSprite 0 1 15) (r0.setI 0xFF1) = .next t) ∧ ∃ t, exec (.drawSprite 0 1 0) r0 = .next t :=
  ⟨rfl, by decide, by decide, ⟨_, rfl⟩, _, rfl⟩
/-- Mode `last`: the last set bit of glyph 0 is bit 3 of its last row. -/
theorem witness_DrawSpriteFlagModes_last_bit :
    r0.cfg.drawVf = .last ∧ r0.i.toNat + (5 : Nibble).toNat ≤ 4096 ∧ lands r0 0 1 4 3 = some ⟨3, 4⟩ ∧
      (∀ row' < (5 : Nibble).toNat, ∀ col' < 8, bitBefore 4 3 row' col' → lands r0 0 1 row' col' = none) ∧
      ∃ t, exec (.drawSprite 0 1 5) r0 = .next t := ⟨rfl, by decide, by decide, by decide, _, rfl⟩
theorem witness_DrawSpriteFlagModes_or :
    (mode .or .wrap).cfg.drawVf = .or ∧ (mode .or .wrap).i.toNat + (5 : Nibble).toNat ≤ 4096 ∧
      DisplayCanonical (mode .or .wrap) ∧ 8 ≤ (mode .or .wrap).cfg.cols ∧ 15 ≤ (mode .or .wrap).cfg.rows ∧
      ∃ t, exec (.drawSprite 0 1 5) (mode .or .wrap) = .next t :=
  ⟨rfl, by decide, by unfold DisplayCanonical; decide, by decide, by decide, _, rfl⟩
/-- Mode `or`: a pixel that is turned off, as a lit one with one bit on it and as a clear one with two or more. -/
theorem witness_DrawSpriteFlagModes_off :
    let s : State := { mode .or .wrap with display := [⟨0, 0⟩] }
    s.pixel ⟨0, 0⟩ = true ∧ see (State.pixel · ⟨0, 0⟩) (exec (.drawSprite 0 1 1) s) = some false ∧
    2 ≤ landings s 0 1 1 ⟨0, 0⟩ + (s.pixel ⟨0, 0⟩).toNat ∧
    2 ≤ landings (grid 1 1 .or) 0 1 1 ⟨0, 0⟩ + ((grid 1 1 .or).pixel ⟨0, 0⟩).toNat := by decide
/-- Mode `or`: no row, so nothing lands and no pixel is turned off. -/
theorem witness_DrawSpriteFlagModes_none :
    (∀ p, landings (mode .or .wrap) 0 1 0 p + ((mode .or .wrap).pixel p).toNat < 2) ∧
    (∀ p, (mode .or .wrap).pixel p = true → ∀ t, exec (.drawSprite 0 1 0) (mode .or .wrap) = .next t →
      t.pixel p = true) :=
  ⟨fun _ => Nat.zero_lt_succ 1, fun _ h => by cases h⟩

theorem witness_DrawSpriteTwiceRestores :
    ∃ t w, exec (.drawSprite 0 1 5) r0 = .next t ∧ DisplayCanonical r0 ∧ r0.i.toNat + (5 : Nibble).toNat ≤ 4096 ∧
      t.cfg = r0.cfg ∧ t.i = r0.i ∧ t.getV 0 = r0.getV 0 ∧ t.getV 1 = r0.getV 1 ∧ (∀ a, t.byteAt a = r0.byteAt a) ∧
      exec (.drawSprite 0 1 5) t = .next w ∧ (∀ p, r0.pixel p = false) ∧ 8 ≤ r0.cfg.cols ∧ 15 ≤ r0.cfg.rows ∧
      r0.spriteAt 0 1 5 ≠ [] :=
  ⟨_, _, rfl, reset_displayCanonical, by decide, rfl, rfl, by decide, by decide, fun _ => rfl, rfl, fun _ => rfl,
    by decide, by decide, by decide⟩

theorem witness_KeySkipInstructions : (r0.setV 2 15).getV 2 = 15 ∧ ((r0.setV 2 15).getV 2).toNat = (15 : Nibble).toNat ∧
    ((r0.setV 2 16).getV 2).toNat > 15 := by decide

theorem witness_WaitKeyInstruction : r0.fault = none := rfl

theorem witness_FrameOfEveryInstruction :
    ∃ t, exec (.storeBcd 4) (r0.setI 0xFFD) = .next t ∧ (r0.setI 0xFFD).fault = none ∧ t.fault = none :=
  ⟨_, rfl, rfl, rfl⟩
theorem witness_RegisterWriteTable : (∃ t, exec (.addReg 1 2) r0 = .next t) ∧ writesReg (.addReg 1 2) 14 = false :=
  ⟨⟨_, rfl⟩, by decide⟩
theorem witness_RegisterReadTable : readsReg (.regDump 14) 15 = false ∧ writesReg (.regDump 14) 15 = false := by decide

theorem witness_MemoryCanonicalKept : MemoryCanonical cells ∧ ∃ t, step cells = .next t :=
  ⟨cells_memoryCanonical, _, rfl⟩
theorem witness_DisplayCanonicalKept : DisplayCanonical lit2 ∧ ∃ t, step lit2 = .next t :=
  ⟨lit2_displayCanonical, _, rfl⟩
/-- PC and a live stack entry at their bounds. -/
theorem witness_PcAndStackBoundsKept :
    PcBounded (((r0.setPc 0x10FE).setSp 1).setStack 0 0x1000) ∧ TopSlotUnused r0 ∧
      (∃ t, step (((r0.setPc 0x10FE).setSp 1).setStack 0 0x1000) = .next t) ∧ ∃ t, step r0 = .next t :=
  ⟨by unfold PcBounded; decide, rfl, ⟨_, rfl⟩, ⟨_, rfl⟩⟩
theorem witness_LatchLegalKept : PcBounded stuck ∧ LatchLegal stuck ∧ ∃ t, step stuck = .next t :=
  ⟨by unfold PcBounded; decide,
   fun e h => by obtain rfl : _ = e := Option.some.inj h; change decode 0x8128 = .error (.unsupported 0x8128); decide,
   _, rfl⟩

theorem witness_ParametersNeverChange : ∃ t, step r0 = .next t := ⟨_, rfl⟩
theorem witness_OutputsOnlyAppend : ∃ t, step (waiting r0 [.reset]) = .next t := ⟨_, rfl⟩
theorem witness_KeysChangeOnlyByKeyEvents :
    see (State.isPressed · 5) (step (waiting r0 [.keyPress 5])) = some true ∧ r0.isPressed 5 = false ∧
    see (State.isPressed · 5) (step (waiting (r0.setKey 5 true) [.keyRelease 5])) = some false ∧
    (r0.setKey 5 true).isPressed 5 = true := by decide
theorem witness_HaltAndLatchChangeOnlyByTheirEvents :
    see State.halt (step (waiting (r0.writeBytes 0x200 [0xF3, 0x0A]) [.cycle 0])) = some true ∧ r0.halt = false ∧
    see State.halt (step (waiting halted [.keyPress 1])) = some false ∧ halted.halt = true ∧
    see State.fault (step (waiting stuck [.reset])) = some none ∧
    stuck.fault = some (.unsupportedInstruction 0x8128) := by decide

/-- The jump to itself at 0x208, and the next event a tick or a cycle. -/
def ended : State := (r0.writeBytes 0x208 [0x12, 0x08]).setPc 0x208
theorem witness_FinishedRunStays :
    finished (waiting ended [.tick]) ∧ (∃ t, step (waiting ended [.tick]) = .next t) ∧
      (nextEvent (waiting ended [.tick])).1 ≠ .reset ∧ ∀ bytes, (nextEvent (waiting ended [.tick])).1 ≠ .load bytes :=
  ⟨⟨rfl, rfl, rfl⟩, ⟨_, rfl⟩, by decide, fun _ h => by cases h⟩
theorem witness_FinishedRunStays_cycle : ∃ rnd, (nextEvent (waiting ended [.cycle 3])).1 = .cycle rnd := ⟨3, rfl⟩

theorem witness_WaitingEventsRunInOrder : (waiting r0 [.tick, .reset]).io.events = [.tick, .reset] := rfl

end Sys2Proof.Tests
end

section
/-! PROOF. What every step keeps and sends: no step changes the parameters (O55, R6), and every step appends at most one
output to the record (O58, R14, R206). A handler also keeps the keys and the model's record of inputs. -/

namespace Sys2Proof.Machine

variable {s t : State}

/-! ### The record of outputs -/

/-- The record `after` is the record `before` with at most one output sent after it (R14). -/
def AtMostOneMore (before after : List Output) : Prop :=
  ∃ l : List Output, after = before ++ l ∧ l.length ≤ 1

theorem AtMostOneMore.none {a b : List Output} (h : b = a) : AtMostOneMore a b := ⟨[], by simp [h], by simp⟩

theorem AtMostOneMore.one {a b : List Output} (n : Output) (h : b = a ++ [n]) : AtMostOneMore a b := ⟨[n], h, by simp⟩

/-! ### Handlers -/

/-- What a handler keeps whether it completes or raises: the parameters, the keys and the record of inputs; of the record
of outputs it keeps all that was sent, and adds at most one (R14, R36, R241). -/
structure HandlerKeeps (s t : State) : Prop where
  cfg : t.cfg = s.cfg
  keys : t.keys = s.keys
  events : t.io.events = s.io.events
  rnd : t.io.rnd = s.io.rnd
  draws : t.io.draws = s.io.draws
  out : AtMostOneMore s.io.out t.io.out

theorem HandlerKeeps.of_silent (hc : t.cfg = s.cfg) (hk : t.keys = s.keys) (hio : t.io = s.io) : HandlerKeeps s t :=
  ⟨hc, hk, by rw [hio], by rw [hio], by rw [hio], .none (by rw [hio])⟩

theorem HandlerKeeps.of_sent (n : Output) (hc : t.cfg = s.cfg) (hk : t.keys = s.keys)
    (hio : t.io = { s.io with out := s.io.out ++ [n] }) : HandlerKeeps s t :=
  ⟨hc, hk, by rw [hio], by rw [hio], by rw [hio], .one n (by rw [hio])⟩

theorem faulted_keeps (s : State) (e : Exception) : HandlerKeeps s (faulted s e) := .of_sent (.fault e) rfl rfl rfl

/-- Only clear-screen and draw-sprite send an output when they complete, and only the forms of R239 can raise. -/
theorem exec_keeps {i : Instr} (h : exec i s = .next t) : HandlerKeeps s t := by
  cases i with
  | clearScreen =>
    obtain rfl := Host.Outcome.next.inj h
    exact .of_sent .render rfl rfl rfl
  | drawSprite x y n =>
    obtain ⟨-, h⟩ | ⟨-, -, rfl⟩ := inRange_cases h
    · obtain rfl := Host.Outcome.next.inj h
      exact .of_sent .render rfl rfl rfl
    · exact faulted_keeps s _
  | storeBcd | regDump | regLoad =>
    obtain ⟨-, h⟩ | ⟨-, -, rfl⟩ := inRange_cases h
    · obtain rfl := Host.Outcome.next.inj h
      exact .of_silent rfl rfl rfl
    · exact faulted_keeps s _
  | skipIfKeyPressed | skipIfKeyNotPressed =>
    simp only [exec, execSkipIfKeyPressed, execSkipIfKeyNotPressed] at h
    obtain ⟨-, h⟩ | ⟨-, rfl⟩ := withKey_cases h
    · obtain rfl := Host.Outcome.next.inj h
      exact .of_silent rfl rfl rfl
    · exact faulted_keeps s _
  | ret | call =>
    simp only [exec, execRet, execCall] at h
    split at h <;> obtain rfl := Host.Outcome.next.inj h
    · exact faulted_keeps s _
    · exact .of_silent rfl rfl rfl
  | noOp | jump | skipEqImm | skipNeqImm | skipEqReg | setImm | addImm | setReg | orReg | andReg | xorReg | addReg
  | subReg | shiftRight | subRegRev | shiftLeft | skipNeqReg | setIndex | jumpPlusV0 | randomAnd | getDelayTimer
  | waitKey | setDelayTimer | setSoundTimer | addToIndex | fontCharAddress =>
    obtain rfl := Host.Outcome.next.inj h
    exact .of_silent rfl rfl rfl

/-- A cycle keeps what a handler keeps: it does nothing, raises, or runs a handler (R200). -/
theorem cycle_keeps (h : cycle s = .next t) : HandlerKeeps s t := by
  obtain ⟨-, rfl⟩ | ⟨-, -, rfl⟩ | ⟨-, -, ⟨-, rfl⟩ | ⟨w, -, -, rfl⟩ | ⟨w, i, -, -, hexec⟩⟩ := cycle_cases h
  · exact .of_silent rfl rfl rfl
  · exact .of_silent rfl rfl rfl
  · exact faulted_keeps s _
  · exact faulted_keeps s _
  · exact exec_keeps hexec

/-! ### The other events -/

@[simp] theorem tick_cfg (s : State) : (tick s).cfg = s.cfg := by unfold tick; split <;> rfl

@[simp] theorem keyPress_cfg (k : Nibble) (s : State) : (keyPress k s).cfg = s.cfg := by
  unfold keyPress; split <;> [rfl; split <;> rfl]

@[simp] theorem keyRelease_cfg (k : Nibble) (s : State) : (keyRelease k s).cfg = s.cfg := by
  unfold keyRelease; split <;> rfl

@[simp] theorem resetCore_cfg (s : State) : (resetCore s).cfg = s.cfg := rfl

@[simp] theorem load_cfg (bytes : List Byte) (s : State) : (load bytes s).cfg = s.cfg := by
  unfold load; split <;> [rfl; split <;> rfl]

@[simp] theorem keyPress_io (k : Nibble) (s : State) : (keyPress k s).io = s.io := by
  unfold keyPress; split <;> [rfl; split <;> rfl]

@[simp] theorem keyRelease_io (k : Nibble) (s : State) : (keyRelease k s).io = s.io := by
  unfold keyRelease; split <;> rfl

/-- A tick sends one sound notification, and none while faulted (R206). -/
theorem tick_out (s : State) : AtMostOneMore s.io.out (tick s).io.out := by
  unfold tick
  split
  · exact .none rfl
  · exact .one _ rfl

/-- A reset sends one `Render` (R264). -/
theorem resetCore_out (s : State) : AtMostOneMore s.io.out (resetCore s).io.out := .one .render rfl

/-- A load sends at most the answer InvalidROM (R216). -/
theorem load_out (bytes : List Byte) (s : State) : AtMostOneMore s.io.out (load bytes s).io.out := by
  unfold load
  split
  · exact .none rfl
  · split
    · exact .one (.invalidRom bytes.length) rfl
    · exact .none rfl

/-! ### One event, one step -/

/-- No event changes the parameters (R6). -/
theorem deliver_cfg {e : Event} (h : deliver e s = .next t) : t.cfg = s.cfg := by
  cases e with
  | cycle rnd => exact (cycle_keeps h).cfg
  | tick | keyPress | keyRelease | reset | load =>
    obtain rfl := Host.Outcome.next.inj h
    simp

/-- One event sends at most one output (R14). -/
theorem deliver_out {e : Event} (h : deliver e s = .next t) : AtMostOneMore s.io.out t.io.out := by
  cases e with
  | cycle rnd => exact (cycle_keeps h).out
  | tick => obtain rfl := Host.Outcome.next.inj h; exact tick_out s
  | keyPress k => obtain rfl := Host.Outcome.next.inj h; exact .none (by simp)
  | keyRelease k => obtain rfl := Host.Outcome.next.inj h; exact .none (by simp)
  | reset => obtain rfl := Host.Outcome.next.inj h; exact resetCore_out s
  | load bytes => obtain rfl := Host.Outcome.next.inj h; exact load_out bytes s

@[simp] theorem nextEvent_cfg (s : State) : (nextEvent s).2.cfg = s.cfg := by
  obtain ⟨io, hstate, -, -⟩ := nextEvent_state s
  rw [hstate, State.setIo_cfg]

@[simp] theorem nextEvent_out (s : State) : (nextEvent s).2.io.out = s.io.out := by
  obtain ⟨io, hstate, hout, -⟩ := nextEvent_state s
  rw [hstate, State.setIo_io, hout]

/-- Settles O55: taking an event keeps the parameters, and so does delivering it. -/
theorem parametersNeverChange : Obligations.ParametersNeverChange := by
  intro s t h
  rw [step_eq] at h
  rw [deliver_cfg h, nextEvent_cfg]

/-- Settles O58: taking an event sends nothing, and delivering it sends at most one output. -/
theorem outputsOnlyAppend : Obligations.OutputsOnlyAppend := by
  intro s t h
  rw [step_eq] at h
  have hout := deliver_out h
  rwa [nextEvent_out] at hout

end Sys2Proof.Machine
end

section
/-! PROOF. What an instruction does, said once: whether it raises (`trap`) and the state it completes in (`completed`),
with `exec_eq` tying the two to `exec`. From it follow the frame of every instruction (O47) and the two columns of the
register table of R21 (O48, O49). -/

namespace Sys2Proof.Machine

variable {s t : State}

/-! ### One equation for every handler -/

/-- The exception of an access of `count` bytes from `base` on, if some of them are outside memory (R51). -/
def rangeTrap (kind : FaultKind) (base count : Nat) : Option Exception :=
  if count = 0 ∨ base + count ≤ memSize then none else some (.memoryFault kind (max base memSize))

/-- The exception an instruction raises, if it raises one (R239). -/
def trap : Instr → State → Option Exception
  | .ret, s => if s.sp = 0 then some (.memoryFault .stackUnderflow 0) else none
  | .call _, s => if s.sp = 15 then some (.memoryFault .stackOverflow 15) else none
  | .skipIfKeyPressed x, s | .skipIfKeyNotPressed x, s =>
    if (s.getV x).toNat > 15 then some (.memoryFault .keyIndex (s.getV x).toNat) else none
  | .drawSprite _ _ n, s => rangeTrap .dataRead s.base n.toNat
  | .storeBcd _, s => rangeTrap .dataWrite s.base 3
  | .regDump x, s => rangeTrap .dataWrite s.base (x.toNat + 1)
  | .regLoad x, s => rangeTrap .dataRead s.base (x.toNat + 1)
  | _, _ => none

/-- The state of a conditional skip (R114). -/
def skipped (cond : Bool) (s : State) : State := s.setPc (if cond then s.pc + 4 else s.pc + 2)

/-- The registers of a flag-producing operation, VF first (R131). -/
def flagged (x : Nibble) (flag result : Byte) (s : State) : State := (s.setV 15 flag).setV x result

/-- The state an instruction completes in when it raises nothing; `exec_eq` ties it to the handlers. -/
def completed : Instr → State → State
  | .clearScreen, s => (s.clearDisplay.emit .render).advance
  | .ret, s => (s.setSp (s.sp - 1)).setPc (s.getStack (s.sp - 1))
  | .noOp _, s => s.advance
  | .jump nnn, s => s.setPc (addrOperand nnn)
  | .call nnn, s => ((s.setStack s.sp (s.pc + 2)).setSp (s.sp + 1)).setPc (addrOperand nnn)
  | .skipEqImm x nn, s => skipped (s.getV x == nn) s
  | .skipNeqImm x nn, s => skipped (s.getV x != nn) s
  | .skipEqReg x y _, s => skipped (s.getV x == s.getV y) s
  | .setImm x nn, s => (s.setV x nn).advance
  | .addImm x nn, s => (s.setV x (addResult (s.getV x) nn)).advance
  | .setReg x y, s => (s.setV x (s.getV y)).advance
  | .orReg x y, s => (s.setV x (s.getV x ||| s.getV y)).advance
  | .andReg x y, s => (s.setV x (s.getV x &&& s.getV y)).advance
  | .xorReg x y, s => (s.setV x (s.getV x ^^^ s.getV y)).advance
  | .addReg x y, s => (flagged x (carry (s.getV x) (s.getV y)) (addResult (s.getV x) (s.getV y)) s).advance
  | .subReg x y, s => (flagged x (noBorrow (s.getV x) (s.getV y)) (subResult (s.getV x) (s.getV y)) s).advance
  | .shiftRight x _, s => (flagged x (shrOut (s.getV x)) (shrResult (s.getV x)) s).advance
  | .subRegRev x y, s => (flagged x (noBorrow (s.getV y) (s.getV x)) (subResult (s.getV y) (s.getV x)) s).advance
  | .shiftLeft x _, s => (flagged x (shlOut (s.getV x)) (shlResult (s.getV x)) s).advance
  | .skipNeqReg x y _, s => skipped (s.getV x != s.getV y) s
  | .setIndex nnn, s => (s.setI (addrOperand nnn)).advance
  | .jumpPlusV0 nnn, s => s.setPc (addrOperand nnn + byteOperand (s.getV 0))
  | .randomAnd x nn, s => (s.setV x (s.io.rnd &&& nn)).advance
  | .drawSprite x y n, s =>
    (((s.setDisplay (s.drawn x y n).1).setV 15 (s.drawn x y n).2).emit .render).advance
  | .skipIfKeyPressed x, s => skipped (s.isPressed ((s.getV x).setWidth 4)) s
  | .skipIfKeyNotPressed x, s => skipped (!s.isPressed ((s.getV x).setWidth 4)) s
  | .getDelayTimer x, s => (s.setV x s.dt).advance
  | .waitKey x, s => ((s.setHalt true).setWaitX x).advance
  | .setDelayTimer x, s => (s.setDt (s.getV x)).advance
  | .setSoundTimer x, s => (s.setSt (s.getV x)).advance
  | .addToIndex x, s => (s.setI (s.i + byteOperand (s.getV x))).advance
  | .fontCharAddress x, s => (s.setI (BitVec.ofNat 16 ((s.getV x).toNat * 5))).advance
  | .storeBcd x, s => (s.writeBytes s.base (bcdDigits (s.getV x))).advance
  | .regDump x, s => (s.writeBytes s.base (s.regsUpTo x)).advance
  | .regLoad x, s => (s.setRegs (s.regsFromMem x)).advance

/-- A range-checked handler in one equation. -/
theorem inRange_eq (kind : FaultKind) (base count : Nat) (s u : State) :
    inRange kind base count s (.next u) = .next ((rangeTrap kind base count).elim u (faulted s)) := by
  unfold inRange rangeTrap
  split <;> rfl

/-- Everything a handler can do: raise its exception, or complete (R203, R241). -/
theorem exec_eq (i : Instr) (s : State) : exec i s = .next ((trap i s).elim (completed i s) (faulted s)) := by
  cases i with
  | drawSprite | storeBcd | regDump | regLoad => exact inRange_eq _ _ _ s _
  | ret | call =>
    simp only [exec, execRet, execCall, trap]
    split <;> rfl
  | skipIfKeyPressed | skipIfKeyNotPressed =>
    simp only [exec, execSkipIfKeyPressed, execSkipIfKeyNotPressed, withKey, trap]
    split <;> rfl
  | _ => rfl

theorem exec_cases {i : Instr} (h : exec i s = .next t) :
    (trap i s = none ∧ t = completed i s) ∨ ∃ e, trap i s = some e ∧ t = faulted s e := by
  rw [exec_eq] at h
  obtain rfl := Host.Outcome.next.inj h
  cases htrap : trap i s with
  | none => exact .inl ⟨rfl, rfl⟩
  | some e => exact .inr ⟨e, rfl, rfl⟩

/-- reg-load changes the registers and moves PC on, nothing else (R155). The later proofs need of the new registers only
that they are some registers. -/
theorem completed_regLoad (x : Nibble) (s : State) : ∃ v, completed (.regLoad x) s = (s.setRegs v).advance := ⟨_, rfl⟩

/-! ### Frames -/

namespace Frame

variable {k : Touched}

theorem refl (k : Touched) (s : State) : Frame k s s := by simp [Frame]

theorem setPc (h : Frame k s t) (w : Word) : Frame k s (t.setPc w) := h

theorem advance (h : Frame k s t) : Frame k s t.advance := h

theorem setV (hk : k.v = true) (h : Frame k s t) (r : Nibble) (b : Byte) : Frame k s (t.setV r b) := by
  simpa [Frame, hk] using h

theorem setRegs (hk : k.v = true) (h : Frame k s t) (v : Vector Byte 16) : Frame k s (t.setRegs v) := by
  simpa [Frame, hk] using h

theorem setI (hk : k.i = true) (h : Frame k s t) (w : Word) : Frame k s (t.setI w) := by
  simpa [Frame, hk] using h

theorem setSp (hk : k.stack = true) (h : Frame k s t) (j : Nibble) : Frame k s (t.setSp j) := by
  simpa [Frame, hk] using h

theorem setStack (hk : k.stack = true) (h : Frame k s t) (j : Nibble) (w : Word) : Frame k s (t.setStack j w) := by
  simpa [Frame, hk] using h

theorem setDt (hk : k.dt = true) (h : Frame k s t) (b : Byte) : Frame k s (t.setDt b) := by
  simpa [Frame, hk] using h

theorem setSt (hk : k.st = true) (h : Frame k s t) (b : Byte) : Frame k s (t.setSt b) := by
  simpa [Frame, hk] using h

theorem setHalt (hk : k.wait = true) (h : Frame k s t) (b : Bool) : Frame k s (t.setHalt b) := by
  simpa [Frame, hk] using h

theorem setWaitX (hk : k.wait = true) (h : Frame k s t) (x : Nibble) : Frame k s (t.setWaitX x) := by
  simpa [Frame, hk] using h

theorem writeBytes (hk : k.mem = true) (h : Frame k s t) (a : Nat) (bs : List Byte) : Frame k s (t.writeBytes a bs) := by
  simpa [Frame, hk] using h

theorem setDisplay (hk : k.display = true) (h : Frame k s t) (d : Raster) : Frame k s (t.setDisplay d) := by
  simpa [Frame, hk] using h

theorem emit (hk : k.out = true) (h : Frame k s t) (n : Output) : Frame k s (t.emit n) := by
  simpa [Frame, hk] using h

end Frame

/-- The frame of an instruction that completes: each handler writes the pieces its row names, and PC last. -/
theorem completed_frame (i : Instr) (s : State) : Frame (touches i) s (completed i s) := by
  have start := Frame.refl (touches i) s
  cases i with
  | noOp | jump | jumpPlusV0 | skipEqImm | skipNeqImm | skipEqReg | skipNeqReg | skipIfKeyPressed
  | skipIfKeyNotPressed => exact start.setPc _
  | setImm | addImm | setReg | orReg | andReg | xorReg | randomAnd | getDelayTimer => exact (start.setV rfl _ _).advance
  | addReg | subReg | shiftRight | subRegRev | shiftLeft => exact ((start.setV rfl _ _).setV rfl _ _).advance
  | regLoad => exact (start.setRegs rfl _).advance
  | setIndex | addToIndex | fontCharAddress => exact (start.setI rfl _).advance
  | ret => exact (start.setSp rfl _).setPc _
  | call => exact ((start.setStack rfl _ _).setSp rfl _).setPc _
  | setDelayTimer => exact (start.setDt rfl _).advance
  | setSoundTimer => exact (start.setSt rfl _).advance
  | waitKey => exact ((start.setHalt rfl _).setWaitX rfl _).advance
  | storeBcd | regDump => exact (start.writeBytes rfl _ _).advance
  | clearScreen => exact ((start.setDisplay rfl _).emit rfl _).advance
  | drawSprite => exact (((start.setDisplay rfl _).setV rfl _ _).emit rfl _).advance

/-- Settles O47: with an empty latch after it the instruction did not raise, so it completed in its frame. -/
theorem frameOfEveryInstruction : Obligations.FrameOfEveryInstruction := by
  intro i s t _ h ht
  obtain ⟨-, rfl⟩ | ⟨e, -, rfl⟩ := exec_cases h
  · exact completed_frame i s
  · simp at ht

/-! ### Registers written -/

theorem getV_setV_ne {r q : Nibble} (h : q ≠ r) (b : Byte) : (s.setV r b).getV q = s.getV q := by
  rw [State.getV_setV, if_neg h]

/-- A completed instruction changes only the registers of the column "writes" (R21). -/
theorem completed_getV {i : Instr} {r : Nibble} (h : writesReg i r = false) : (completed i s).getV r = s.getV r := by
  cases i with
  | setImm | addImm | setReg | orReg | andReg | xorReg | randomAnd | getDelayTimer | drawSprite =>
    exact getV_setV_ne (by simpa [writesReg] using h) _
  | addReg x | subReg x | shiftRight x | subRegRev x | shiftLeft x =>
    obtain ⟨hx, hvf⟩ : r ≠ x ∧ r ≠ 15 := by simpa [writesReg] using h
    exact (getV_setV_ne hx _).trans (getV_setV_ne hvf _)
  | regLoad x =>
    have hr : ¬ r.toNat ≤ x.toNat := by simpa [writesReg] using h
    rw [completed, State.advance_getV, State.getV_regsFromMem, if_neg hr]
  | _ => exact (completed_frame _ s).1 rfl r

/-- Settles O48: a raising instruction changes no register, a completing one only those of its row. -/
theorem registerWriteTable : Obligations.RegisterWriteTable := by
  intro i s t r h hr
  obtain ⟨-, rfl⟩ | ⟨e, -, rfl⟩ := exec_cases h
  · exact completed_getV hr
  · rfl

/-! ### Registers read -/

theorem setV_comm {x r : Nibble} (h : x ≠ r) (s : State) (a b : Byte) :
    (s.setV r b).setV x a = (s.setV x a).setV r b := by
  have hne : r.toNat ≠ x.toNat := fun hc => h (BitVec.eq_of_toNat_eq hc.symm)
  simp only [State.setV, Vector.set_comm _ _ hne]

theorem advance_setV (s : State) (r : Nibble) (b : Byte) : (s.setV r b).advance = s.advance.setV r b := rfl

theorem flagged_setV {x r : Nibble} (hx : x ≠ r) (hvf : 15 ≠ r) (flag result : Byte) (s : State) (b : Byte) :
    flagged x flag result (s.setV r b) = (flagged x flag result s).setV r b := by
  simp only [flagged, setV_comm hvf, setV_comm hx]

/-- What a sprite toggles depends on no register but VX and VY (R166). -/
theorem spriteAt_setV {x y r : Nibble} (hx : x ≠ r) (hy : y ≠ r) (n : Nibble) (s : State) (b : Byte) :
    (s.setV r b).spriteAt x y n = s.spriteAt x y n := by
  simp [State.spriteAt, getV_setV_ne hx, getV_setV_ne hy]

theorem drawn_setV {x y r : Nibble} (hx : x ≠ r) (hy : y ≠ r) (hvf : 15 ≠ r) (n : Nibble) (s : State) (b : Byte) :
    (s.setV r b).drawn x y n = s.drawn x y n := by
  simp only [State.drawn, spriteAt_setV hx hy, getV_setV_ne hvf, State.setV_cfg, State.setV_display]

/-- The registers reg-dump stores are V0 to VX (R154). -/
theorem regsUpTo_setV {x r : Nibble} (h : x.toNat < r.toNat) (s : State) (b : Byte) :
    (s.setV r b).regsUpTo x = s.regsUpTo x := by
  refine List.map_congr_left fun k hk => getV_setV_ne (fun hc => ?_) b
  have hk : k ≤ x.toNat := by simpa [Nat.lt_succ_iff] using hk
  have hr : r.toNat = k % 16 := by simp [← hc]
  omega

/-- reg-load leaves the registers above VX as they are (R155). -/
theorem regsFromMem_setV {x r : Nibble} (h : x.toNat < r.toNat) (s : State) (b : Byte) :
    (s.setV r b).setRegs ((s.setV r b).regsFromMem x) = (s.setRegs (s.regsFromMem x)).setV r b := by
  have hregs : (s.setV r b).regsFromMem x = (s.regsFromMem x).set r.toNat b r.isLt := by
    refine Vector.ext fun k hk => ?_
    by_cases hkr : r.toNat = k
    · simp [State.regsFromMem, ← hkr, h]
    · simp [State.regsFromMem, Vector.getElem_set_ne, hkr]
  rw [hregs]
  rfl

/-- Whether an instruction raises depends only on the registers it reads (R239). -/
theorem trap_setV {i : Instr} {r : Nibble} (hread : readsReg i r = false) (s : State) (b : Byte) :
    trap i (s.setV r b) = trap i s := by
  cases i with
  | skipIfKeyPressed x | skipIfKeyNotPressed x =>
    have hx : r ≠ x := by simpa [readsReg] using hread
    simp only [trap, getV_setV_ne hx.symm]
  | _ => rfl

/-- A completed instruction takes a register it neither reads nor writes through unchanged (R21). -/
theorem completed_setV {i : Instr} {r : Nibble} (hread : readsReg i r = false) (hwrite : writesReg i r = false)
    (s : State) (b : Byte) : completed i (s.setV r b) = (completed i s).setV r b := by
  cases i with
  | skipEqImm x | skipNeqImm x | skipIfKeyPressed x | skipIfKeyNotPressed x | setDelayTimer x | setSoundTimer x
  | addToIndex x | fontCharAddress x | storeBcd x =>
    have hx : r ≠ x := by simpa [readsReg] using hread
    simp only [completed, getV_setV_ne hx.symm]
    rfl
  | jumpPlusV0 =>
    have h0 : r ≠ 0 := by simpa [readsReg] using hread
    simp only [completed, getV_setV_ne h0.symm]
    rfl
  | skipEqReg x y | skipNeqReg x y =>
    obtain ⟨hx, hy⟩ : r ≠ x ∧ r ≠ y := by simpa [readsReg] using hread
    simp only [completed, getV_setV_ne hx.symm, getV_setV_ne hy.symm]
    rfl
  | setImm x | randomAnd x | getDelayTimer x =>
    have hx : r ≠ x := by simpa [writesReg] using hwrite
    simp only [completed, setV_comm hx.symm, advance_setV, State.setV_dt, State.setV_io]
  | addImm x =>
    have hx : r ≠ x := by simpa [readsReg] using hread
    simp only [completed, getV_setV_ne hx.symm, setV_comm hx.symm, advance_setV]
  | setReg x y =>
    have hx : r ≠ x := by simpa [writesReg] using hwrite
    have hy : r ≠ y := by simpa [readsReg] using hread
    simp only [completed, getV_setV_ne hy.symm, setV_comm hx.symm, advance_setV]
  | orReg x y | andReg x y | xorReg x y =>
    obtain ⟨hx, hy⟩ : r ≠ x ∧ r ≠ y := by simpa [readsReg] using hread
    simp only [completed, getV_setV_ne hx.symm, getV_setV_ne hy.symm, setV_comm hx.symm, advance_setV]
  | addReg x y | subReg x y | subRegRev x y =>
    obtain ⟨hx, hy⟩ : r ≠ x ∧ r ≠ y := by simpa [readsReg] using hread
    obtain ⟨-, hvf⟩ : r ≠ x ∧ r ≠ 15 := by simpa [writesReg] using hwrite
    simp only [completed, getV_setV_ne hx.symm, getV_setV_ne hy.symm, flagged_setV hx.symm hvf.symm, advance_setV]
  | shiftRight x | shiftLeft x =>
    obtain ⟨hx, hvf⟩ : r ≠ x ∧ r ≠ 15 := by simpa [writesReg] using hwrite
    simp only [completed, getV_setV_ne hx.symm, flagged_setV hx.symm hvf.symm, advance_setV]
  | drawSprite x y n =>
    obtain ⟨hx, hy⟩ : r ≠ x ∧ r ≠ y := by simpa [readsReg] using hread
    have hvf : r ≠ 15 := by simpa [writesReg] using hwrite
    simp only [completed, drawn_setV hx.symm hy.symm hvf.symm]
    exact congrArg (fun u => (State.emit u .render).advance) (setV_comm hvf.symm (s.setDisplay (s.drawn x y n).1) _ b)
  | regDump x =>
    have hx : x.toNat < r.toNat := by simpa [readsReg] using hread
    simp only [completed, regsUpTo_setV hx]
    rfl
  | regLoad x =>
    have hx : x.toNat < r.toNat := by simpa [writesReg] using hwrite
    rw [completed, regsFromMem_setV hx, advance_setV, completed]
  | clearScreen | ret | noOp | jump | call | setIndex | waitKey => rfl

/-- Settles O49: both whether the instruction raises and what it completes in commute with the write of the register. -/
theorem registerReadTable : Obligations.RegisterReadTable := by
  intro i s r b hread hwrite
  rw [exec_eq, exec_eq, trap_setV hread, completed_setV hread hwrite]
  cases trap i s <;> rfl

end Sys2Proof.Machine
end

section
/-! PROOF. What every step keeps: the display on its grid (O51), PC and the stack in bounds (O52), and both at reset
(O54); and which events change the keys (O56), `halt` and the latch (O57). -/

namespace Sys2Proof.Machine

variable {s t : State}

/-! ### The pieces only an instruction or a reset changes -/

/-- Two states agree on the display, PC and the stack (and on the parameters). -/
structure SameCore (s t : State) : Prop where
  cfg : t.cfg = s.cfg
  display : t.display = s.display
  pc : t.pc = s.pc
  sp : t.sp = s.sp
  stack : t.stack = s.stack

theorem nextEvent_sameCore (s : State) : SameCore s (nextEvent s).2 := by
  obtain ⟨io, hstate, -, -⟩ := nextEvent_state s
  rw [hstate]
  exact ⟨rfl, rfl, rfl, rfl, rfl⟩

theorem present_sameCore (rnd : Byte) (s : State) : SameCore s (s.present rnd) := ⟨rfl, rfl, rfl, rfl, rfl⟩

theorem faulted_sameCore (s : State) (e : Exception) : SameCore s (faulted s e) := ⟨rfl, rfl, rfl, rfl, rfl⟩

theorem tick_sameCore (s : State) : SameCore s (tick s) := by
  unfold tick
  split <;> exact ⟨rfl, rfl, rfl, rfl, rfl⟩

theorem keyPress_sameCore (k : Nibble) (s : State) : SameCore s (keyPress k s) := by
  unfold keyPress
  split <;> [skip; split] <;> exact ⟨rfl, rfl, rfl, rfl, rfl⟩

theorem keyRelease_sameCore (k : Nibble) (s : State) : SameCore s (keyRelease k s) := by
  unfold keyRelease
  split <;> exact ⟨rfl, rfl, rfl, rfl, rfl⟩

theorem load_sameCore (bytes : List Byte) (s : State) : SameCore s (load bytes s) := by
  unfold load
  split <;> [skip; split] <;> exact ⟨rfl, rfl, rfl, rfl, rfl⟩

/-- A property of the display, PC and the stack that every completing instruction and reset keep is kept by every step.
The instruction was fetched, so PC is inside memory. -/
theorem step_keeps {P : State → Prop} (hsame : ∀ s t, SameCore s t → P s → P t)
    (hrun : ∀ i s, s.pc.toNat + 1 < memSize → trap i s = none → P s → P (completed i s))
    (hreset : ∀ s, P s → P (resetCore s)) (hs : P s) (h : step s = .next t) : P t := by
  have hu := hsame _ _ (nextEvent_sameCore s) hs
  rw [step_eq] at h
  generalize (nextEvent s).1 = e, (nextEvent s).2 = u at h hu
  cases e with
  | cycle rnd =>
    have hp : P (u.present rnd) := hsame _ _ (present_sameCore rnd u) hu
    have hraise (x : Exception) : P (faulted (u.present rnd) x) := hsame _ _ (faulted_sameCore _ x) hp
    obtain ⟨-, rfl⟩ | ⟨-, -, rfl⟩ | ⟨-, -, ⟨-, rfl⟩ | ⟨w, -, -, rfl⟩ | ⟨w, i, hw, -, hexec⟩⟩ := cycle_cases h
    · exact hp
    · exact hp
    · exact hraise _
    · exact hraise _
    · obtain ⟨htrap, rfl⟩ | ⟨x, -, rfl⟩ := exec_cases hexec
      · exact hrun i _ (fetch_inside hw) htrap hp
      · exact hraise x
  | tick => obtain rfl := Host.Outcome.next.inj h; exact hsame _ _ (tick_sameCore u) hu
  | keyPress k => obtain rfl := Host.Outcome.next.inj h; exact hsame _ _ (keyPress_sameCore k u) hu
  | keyRelease k => obtain rfl := Host.Outcome.next.inj h; exact hsame _ _ (keyRelease_sameCore k u) hu
  | load bytes => obtain rfl := Host.Outcome.next.inj h; exact hsame _ _ (load_sameCore bytes u) hu
  | reset => obtain rfl := Host.Outcome.next.inj h; exact hreset u hu

/-! ### The display -/

/-- A sprite toggles pixels of the grid only (R167). -/
theorem drawn_wf (h : DisplayCanonical s) (x y n : Nibble) : Raster.wf s.cfg (s.drawn x y n).1 := by
  obtain ⟨hgrid, hlit⟩ := h
  rw [State.drawn, plotAll_fst]
  exact foldl_toggle_wf hlit (spritePixels_onGrid hgrid)

/-- Only clear-screen and draw-sprite change the display (R35). -/
theorem completed_displayCanonical (i : Instr) (h : DisplayCanonical s) : DisplayCanonical (completed i s) := by
  cases i with
  | clearScreen => exact ⟨h.1, Raster.wf_nil⟩
  | drawSprite x y n => exact ⟨h.1, drawn_wf h x y n⟩
  | regLoad x =>
    obtain ⟨v, hv⟩ := completed_regLoad x s
    rw [hv]
    exact h
  | _ => exact h

/-- Settles O51: instructions toggle pixels on the grid or clear it, reset clears it, no other event touches it. -/
theorem displayCanonicalKept : Obligations.DisplayCanonicalKept := by
  intro s t hs h
  refine step_keeps (P := DisplayCanonical) (fun s t hst hs => ?_) (fun i s _ _ hs => completed_displayCanonical i hs)
    (fun s hs => ⟨hs.1, Raster.wf_nil⟩) hs h
  unfold DisplayCanonical
  rwa [hst.cfg, hst.display]

/-! ### PC and the stack -/

theorem getStack_of_stack_eq (h : t.stack = s.stack) (k : Nibble) : t.getStack k = s.getStack k := by
  simp only [State.getStack, h]

/-- With the stack as it was, only PC has to be looked at. -/
theorem PcBounded.of_pc (h : PcBounded s) (hsp : t.sp = s.sp) (hstack : t.stack = s.stack)
    (hpc : t.pc.toNat ≤ 0x10FE) : PcBounded t := by
  refine ⟨hpc, fun k hk => ?_⟩
  rw [getStack_of_stack_eq hstack]
  exact h.2 k (hsp ▸ hk)

theorem addrOperand_lt (nnn : Addr) : (addrOperand nnn).toNat < 4096 := by
  have := nnn.isLt
  simp only [addrOperand, BitVec.toNat_setWidth]
  omega

theorem byteOperand_lt (b : Byte) : (byteOperand b).toNat < 256 := by
  have := b.isLt
  simp only [byteOperand, BitVec.toNat_setWidth]
  omega

/-- PC after an instruction inside memory that moves it by 2 (R203). -/
theorem pc_add_two_le (hin : s.pc.toNat + 1 < memSize) : (s.pc + 2).toNat ≤ 0x1000 := by
  simp only [memSize] at hin
  bv_omega

theorem skipped_pc_le (hin : s.pc.toNat + 1 < memSize) (cond : Bool) : (skipped cond s).pc.toNat ≤ 0x10FE := by
  have h4 : (s.pc + 4).toNat ≤ 0x10FE := by simp only [memSize] at hin; bv_omega
  have h2 := pc_add_two_le hin
  cases cond
  · exact h2.trans (by decide)
  · exact h4

/-- A call with SP below 15 pushes an address of at most 0x1000 (R113). -/
theorem call_pcBounded (h : PcBounded s) (hin : s.pc.toNat + 1 < memSize) (hsp : s.sp ≠ 15) (nnn : Addr) :
    PcBounded (completed (.call nnn) s) := by
  refine ⟨(addrOperand_lt nnn).le.trans (by decide), fun k hk => ?_⟩
  have hpush : (s.sp + 1).toNat = s.sp.toNat + 1 := by revert hsp; bv_omega
  have hk : k.toNat < s.sp.toNat + 1 := hpush ▸ hk
  change ((s.setStack s.sp (s.pc + 2)).getStack k).toNat ≤ 0x1000
  rw [State.getStack_setStack]
  split
  · exact pc_add_two_le hin
  · next hne => exact h.2 k (by bv_omega)

/-- A return with SP above 0 takes PC from a live entry (R110). -/
theorem ret_pcBounded (h : PcBounded s) (hsp : s.sp ≠ 0) : PcBounded (completed .ret s) := by
  have hpop : (s.sp - 1).toNat < s.sp.toNat := by bv_omega
  exact ⟨(h.2 _ hpop).trans (by decide), fun k hk => h.2 k (lt_trans hk hpop)⟩

/-- R25: the largest PC comes from jump-plus-v0, 0xFFF + 0xFF. -/
theorem completed_pcBounded (i : Instr) (hin : s.pc.toNat + 1 < memSize) (htrap : trap i s = none)
    (h : PcBounded s) : PcBounded (completed i s) := by
  cases i with
  | ret => exact ret_pcBounded h (by simpa [trap] using htrap)
  | call nnn => exact call_pcBounded h hin (by simpa [trap] using htrap) nnn
  | jump nnn => exact h.of_pc rfl rfl ((addrOperand_lt nnn).le.trans (by decide))
  | jumpPlusV0 nnn =>
    refine h.of_pc rfl rfl (?_ : (addrOperand nnn + byteOperand (s.getV 0)).toNat ≤ 0x10FE)
    have hnnn := addrOperand_lt nnn
    have hv0 := byteOperand_lt (s.getV 0)
    rw [BitVec.toNat_add]
    omega
  | skipEqImm | skipNeqImm | skipEqReg | skipNeqReg | skipIfKeyPressed | skipIfKeyNotPressed =>
    exact h.of_pc rfl rfl (skipped_pc_le hin _)
  | regLoad x =>
    obtain ⟨v, hv⟩ := completed_regLoad x s
    rw [hv]
    exact h.of_pc rfl rfl ((pc_add_two_le hin).trans (by decide))
  | _ => exact h.of_pc rfl rfl ((pc_add_two_le hin).trans (by decide))

/-- R31: the slot a call writes is below 15. -/
theorem completed_topSlot (i : Instr) (htrap : trap i s = none) (h : TopSlotUnused s) :
    TopSlotUnused (completed i s) := by
  cases i with
  | call nnn =>
    have hsp : s.sp ≠ 15 := by simpa [trap] using htrap
    exact (State.getStack_setStack s _ _ _).trans ((if_neg hsp.symm).trans h)
  | regLoad x =>
    obtain ⟨v, hv⟩ := completed_regLoad x s
    rw [hv]
    exact h
  | _ => exact h

theorem resetCore_pcBounded (s : State) : PcBounded (resetCore s) :=
  ⟨(by decide : programOrigin % 2 ^ 16 ≤ 0x10FE), fun k hk => absurd hk k.toNat.not_lt_zero⟩

theorem resetCore_topSlot (s : State) : TopSlotUnused (resetCore s) := rfl

/-- Settles O52: instructions keep both bounds, reset establishes them, no other event touches PC or the stack. -/
theorem pcAndStackBoundsKept : Obligations.PcAndStackBoundsKept := by
  refine ⟨fun s t hs h => ?_, fun s t hs h => ?_⟩
  · exact step_keeps (P := PcBounded) (fun s t hst hs => hs.of_pc hst.sp hst.stack (hst.pc ▸ hs.1))
      (fun i _ => completed_pcBounded i) (fun s _ => resetCore_pcBounded s) hs h
  · exact step_keeps (P := TopSlotUnused) (fun s t hst hs => (getStack_of_stack_eq hst.stack 15).trans hs)
      (fun i _ _ => completed_topSlot i) (fun s _ => resetCore_topSlot s) hs h

/-- Settles O54: nothing is lit or stored, the stack is empty, PC is 0x200 and the latch holds nothing. -/
theorem invariantsAtReset : Obligations.InvariantsAtReset where
  mem := Memory.wf_nil
  display := ⟨by decide, Raster.wf_nil⟩
  pc := ⟨by decide, fun k hk => absurd hk k.toNat.not_lt_zero⟩
  slot := rfl
  latch := fun _ he => by cases he

/-! ### Keys -/

@[simp] theorem nextEvent_isPressed (s : State) (k : Nibble) : (nextEvent s).2.isPressed k = s.isPressed k := by
  obtain ⟨io, hstate, -, -⟩ := nextEvent_state s
  rw [hstate, State.setIo_isPressed]

theorem keyPress_isPressed (j k : Nibble) (s : State) :
    (keyPress j s).isPressed k = if s.fault = none ∧ k = j then true else s.isPressed k := by
  unfold keyPress
  cases hf : s.fault <;> cases s.halt <;> simp [State.isPressed_setKey]

theorem keyRelease_isPressed (j k : Nibble) (s : State) :
    (keyRelease j s).isPressed k = if s.fault = none ∧ k = j then false else s.isPressed k := by
  unfold keyRelease
  cases hf : s.fault <;> simp [State.isPressed_setKey]

@[simp] theorem tick_keys (s : State) : (tick s).keys = s.keys := by unfold tick; split <;> rfl

@[simp] theorem load_keys (bytes : List Byte) (s : State) : (load bytes s).keys = s.keys := by
  unfold load; split <;> [rfl; split <;> rfl]

theorem isPressed_of_keys_eq (h : t.keys = s.keys) (k : Nibble) : t.isPressed k = s.isPressed k := by
  simp only [State.isPressed, h]

/-- What one event does to one key: nothing, or it is the press or release of that key (R36). -/
theorem deliver_key {e : Event} (h : deliver e s = .next t) (k : Nibble) :
    t.isPressed k = s.isPressed k ∨ (e = .keyPress k ∧ t.isPressed k = true) ∨
      (e = .keyRelease k ∧ t.isPressed k = false) := by
  cases e with
  | cycle rnd => exact .inl (isPressed_of_keys_eq (cycle_keeps h).keys k)
  | tick | load =>
    obtain rfl := Host.Outcome.next.inj h
    exact .inl (isPressed_of_keys_eq (by simp) k)
  | reset => obtain rfl := Host.Outcome.next.inj h; exact .inl rfl
  | keyPress j =>
    obtain rfl := Host.Outcome.next.inj h
    rw [keyPress_isPressed]
    split
    · next hj => exact .inr (.inl ⟨by rw [hj.2], rfl⟩)
    · exact .inl rfl
  | keyRelease j =>
    obtain rfl := Host.Outcome.next.inj h
    rw [keyRelease_isPressed]
    split
    · next hj => exact .inr (.inr ⟨by rw [hj.2], rfl⟩)
    · exact .inl rfl

/-- Settles O56: a key that differs was pressed or released by the event of the step. -/
theorem keysChangeOnlyByKeyEvents : Obligations.KeysChangeOnlyByKeyEvents := by
  intro s t k h hne
  rw [step_eq] at h
  exact (deliver_key h k).resolve_left fun hkept => hne (hkept.trans (nextEvent_isPressed s k))

/-! ### `halt` and the latch -/

@[simp] theorem nextEvent_halt (s : State) : (nextEvent s).2.halt = s.halt := by
  obtain ⟨io, hstate, -, -⟩ := nextEvent_state s
  rw [hstate, State.setIo_halt]

@[simp] theorem nextEvent_fault (s : State) : (nextEvent s).2.fault = s.fault := by
  obtain ⟨io, hstate, -, -⟩ := nextEvent_state s
  rw [hstate, State.setIo_fault]

@[simp] theorem nextEvent_fetch (s : State) : fetch (nextEvent s).2 = fetch s := by
  obtain ⟨io, hstate, -, -⟩ := nextEvent_state s
  rw [hstate]
  rfl

@[simp] theorem tick_halt (s : State) : (tick s).halt = s.halt := by unfold tick; split <;> rfl

@[simp] theorem keyRelease_halt (k : Nibble) (s : State) : (keyRelease k s).halt = s.halt := by
  unfold keyRelease; split <;> rfl

@[simp] theorem load_halt (bytes : List Byte) (s : State) : (load bytes s).halt = s.halt := by
  unfold load; split <;> [rfl; split <;> rfl]

theorem keyPress_halt_of_not (k : Nibble) (h : s.halt = false) : (keyPress k s).halt = false := by
  unfold keyPress; split <;> simp [h]

/-- A completed instruction other than wait-key keeps `halt` (R27). -/
theorem completed_halt (i : Instr) (s : State) : (completed i s).halt = s.halt ∨ ∃ x, i = .waitKey x := by
  cases i with
  | waitKey x => exact .inr ⟨x, rfl⟩
  | regLoad x =>
    obtain ⟨v, hv⟩ := completed_regLoad x s
    exact .inl (by rw [hv]; rfl)
  | _ => exact .inl rfl

/-- A cycle changes `halt` only by running wait-key (R27, R201). -/
theorem cycle_halt (h : cycle s = .next t) :
    t.halt = s.halt ∨ (s.halt = false ∧ ∃ w x, fetch s = .ok w ∧ decode w = .ok (.waitKey x)) := by
  obtain ⟨-, rfl⟩ | ⟨-, -, rfl⟩ | ⟨-, hhalt, ⟨-, rfl⟩ | ⟨w, -, -, rfl⟩ | ⟨w, i, hw, hd, hexec⟩⟩ := cycle_cases h
  · exact .inl rfl
  · exact .inl rfl
  · exact .inl rfl
  · exact .inl rfl
  · obtain ⟨-, rfl⟩ | ⟨e, -, rfl⟩ := exec_cases hexec
    · exact (completed_halt i s).imp_right fun ⟨x, hx⟩ => ⟨hhalt, w, x, hw, hx ▸ hd⟩
    · exact .inl rfl

/-- What one event does to `halt`: nothing; a wait-key sets it; a key press or reset clears it (R27). -/
theorem deliver_halt {e : Event} (h : deliver e s = .next t) :
    t.halt = s.halt ∨
      (s.halt = false ∧ ∃ rnd w x, e = .cycle rnd ∧ fetch s = .ok w ∧ decode w = .ok (.waitKey x)) ∨
      (s.halt = true ∧ ((∃ k, e = .keyPress k) ∨ e = .reset)) := by
  cases e with
  | cycle rnd =>
    exact (cycle_halt h).imp_right fun ⟨hhalt, w, x, hw, hd⟩ => .inl ⟨hhalt, rnd, w, x, rfl, hw, hd⟩
  | tick | keyRelease | load =>
    obtain rfl := Host.Outcome.next.inj h
    exact .inl (by simp)
  | keyPress k =>
    obtain rfl := Host.Outcome.next.inj h
    cases hhalt : s.halt with
    | false => exact .inl (keyPress_halt_of_not k hhalt)
    | true => exact .inr (.inr ⟨rfl, .inl ⟨k, rfl⟩⟩)
  | reset =>
    obtain rfl := Host.Outcome.next.inj h
    cases hhalt : s.halt with
    | false => exact .inl rfl
    | true => exact .inr (.inr ⟨rfl, .inr rfl⟩)

/-- While an exception is in the latch no event but reset changes it (R38, R243). -/
theorem deliver_latched {e : Event} {x : Exception} (hx : s.fault = some x) (h : deliver e s = .next t) :
    t.fault = some x ∨ e = .reset := by
  have hsome : s.fault.isSome = true := by rw [hx]; rfl
  cases e with
  | reset => exact .inr rfl
  | cycle rnd =>
    obtain rfl : s.present rnd = t := Host.Outcome.next.inj ((if_pos hsome).symm.trans h)
    exact .inl hx
  | tick | keyPress | keyRelease | load =>
    obtain rfl := Host.Outcome.next.inj h
    exact .inl ((congrArg State.fault (if_pos hsome)).trans hx)

/-- Settles O57: each clause is the case of `deliver_halt` or `deliver_latched` that its hypotheses leave. -/
theorem haltAndLatchChangeOnlyByTheirEvents : Obligations.HaltAndLatchChangeOnlyByTheirEvents := by
  intro s t h
  rw [step_eq] at h
  have hhalt := deliver_halt h
  rw [nextEvent_halt, nextEvent_fetch] at hhalt
  refine ⟨fun hs ht => ?_, fun hs ht => ?_, fun e he hne => ?_⟩
  · simpa [hs, ht] using hhalt
  · simpa [hs, ht] using hhalt
  · exact (deliver_latched ((nextEvent_fault s).trans he) h).resolve_left hne

end Sys2Proof.Machine
end

section
/-! PROOF. Memory (R50 to R57): a canonical memory is determined by what it reads (O37), every step keeps memory
canonical (O50), and the next fetch reads what reg-dump stored (O36). -/

namespace Sys2Proof.Machine

variable {s t : State}

/-! ### What a canonical memory lists -/

namespace Memory

variable {c : Config}

/-- A canonical memory lists exactly the addresses that do not read as their reset contents, each with what it reads. -/
theorem mem_iff_read {m : Memory} (h : wf c m) (p : Host.Cell) :
    p ∈ m ↔ m.read c p.1 = p.2 ∧ p.2 ≠ initialByte c p.1 := by
  induction m with
  | nil => simp [read, eq_comm]
  | cons cell m ih =>
    obtain ⟨habove, -⟩ := List.pairwise_cons.mp h.1
    rw [List.mem_cons, ih (wf_tail h), read]
    by_cases haddr : cell.1 = p.1
    · have htail : read c m p.1 = initialByte c p.1 := read_of_lt fun q hq => haddr ▸ habove q hq
      have hcell : cell.2 ≠ initialByte c p.1 := haddr ▸ (h.2 cell List.mem_cons_self).2
      rw [if_pos haddr, htail, Prod.ext_iff]
      constructor
      · rintro (⟨-, hbyte⟩ | ⟨hbyte, hne⟩)
        · exact ⟨hbyte.symm, hbyte ▸ hcell⟩
        · exact absurd hbyte.symm hne
      · rintro ⟨hbyte, -⟩
        exact .inl ⟨haddr.symm, hbyte.symm⟩
    · have hne : p ≠ cell := fun hp => haddr (by rw [hp])
      simp [haddr, hne]

/-- Two lists of the same cells, both by rising address, are one list. -/
theorem eq_of_read_eq {m m' : Memory} (h : wf c m) (h' : wf c m') (hread : ∀ a, m.read c a = m'.read c a) : m = m' := by
  have : Std.Asymm fun p q : Host.Cell => p.1 < q.1 := ⟨fun _ _ => Nat.lt_asymm⟩
  refine h.1.eq_of_mem_iff h'.1 fun {p} => ?_
  rw [mem_iff_read h, mem_iff_read h', hread]

end Memory

/-- Settles O37: two canonical memories that read the same list the same cells in the same order. -/
theorem canonicalMemoriesAgree : Obligations.CanonicalMemoriesAgree :=
  fun _ _ _ => Memory.eq_of_read_eq

/-! ### Every step keeps memory canonical -/

theorem MemoryCanonical.of_eq (h : MemoryCanonical s) (hmem : t.mem = s.mem) (hcfg : t.cfg = s.cfg) :
    MemoryCanonical t := by
  unfold MemoryCanonical
  rwa [hmem, hcfg]

/-- A store inside memory keeps memory canonical. -/
theorem MemoryCanonical.writeBytes (h : MemoryCanonical s) {a : Nat} {bs : List Byte} (ha : a + bs.length ≤ memSize) :
    MemoryCanonical (s.writeBytes a bs) := Memory.writeBytes_wf bs h ha

theorem rangeTrap_eq_none {kind : FaultKind} {base count : Nat} :
    rangeTrap kind base count = none ↔ count = 0 ∨ base + count ≤ memSize := by
  simp [rangeTrap, or_iff_not_imp_left]

/-- Only store-bcd and reg-dump write memory, and their range was checked first (R51). -/
theorem completed_memoryCanonical (i : Instr) (htrap : trap i s = none) (h : MemoryCanonical s) :
    MemoryCanonical (completed i s) := by
  cases i with
  | storeBcd x =>
    have hin : s.base + 3 ≤ memSize := (rangeTrap_eq_none.mp htrap).resolve_left (by decide)
    exact h.writeBytes hin
  | regDump x =>
    have hin : s.base + (x.toNat + 1) ≤ memSize := (rangeTrap_eq_none.mp htrap).resolve_left (by omega)
    exact h.writeBytes (by rwa [length_regsUpTo])
  | regLoad x =>
    obtain ⟨v, hv⟩ := completed_regLoad x s
    rw [hv]
    exact h
  | _ => exact h

/-- A cycle raises, which keeps memory, or completes an instruction (R200, R241). -/
theorem cycle_memoryCanonical (hs : MemoryCanonical s) (h : cycle s = .next t) : MemoryCanonical t := by
  have hraise (e : Exception) : MemoryCanonical (faulted s e) := hs
  obtain ⟨-, rfl⟩ | ⟨-, -, rfl⟩ | ⟨-, -, ⟨-, rfl⟩ | ⟨w, -, -, rfl⟩ | ⟨w, i, -, -, hexec⟩⟩ := cycle_cases h
  · exact hs
  · exact hs
  · exact hraise _
  · exact hraise _
  · obtain ⟨htrap, rfl⟩ | ⟨e, -, rfl⟩ := exec_cases hexec
    · exact completed_memoryCanonical i htrap hs
    · exact hraise e

@[simp] theorem tick_mem (s : State) : (tick s).mem = s.mem := by unfold tick; split <;> rfl

@[simp] theorem keyPress_mem (k : Nibble) (s : State) : (keyPress k s).mem = s.mem := by
  unfold keyPress; split <;> [rfl; split <;> rfl]

@[simp] theorem keyRelease_mem (k : Nibble) (s : State) : (keyRelease k s).mem = s.mem := by
  unfold keyRelease; split <;> rfl

/-- A load that is not refused fits above 0x200 (R216). -/
theorem load_memoryCanonical (bytes : List Byte) (h : MemoryCanonical s) : MemoryCanonical (load bytes s) := by
  unfold load
  split
  · exact h
  · split
    · exact h
    · next hfits => exact Memory.loadedMemory_wf (Nat.le_of_not_lt hfits)

/-- Of the events other than a cycle only reset and load write memory (R208). -/
theorem deliver_memoryCanonical {e : Event} (hs : MemoryCanonical s) (h : deliver e s = .next t) :
    MemoryCanonical t := by
  cases e with
  | cycle rnd => exact cycle_memoryCanonical (s := s.present rnd) hs h
  | tick | keyPress | keyRelease =>
    obtain rfl := Host.Outcome.next.inj h
    exact hs.of_eq (by simp) (by simp)
  | reset => obtain rfl := Host.Outcome.next.inj h; exact Memory.wf_nil
  | load bytes => obtain rfl := Host.Outcome.next.inj h; exact load_memoryCanonical bytes hs

@[simp] theorem nextEvent_mem (s : State) : (nextEvent s).2.mem = s.mem := by
  obtain ⟨io, hstate, -, -⟩ := nextEvent_state s
  rw [hstate, State.setIo_mem]

/-- Settles O50: taking an event keeps memory, and delivering it keeps memory canonical. -/
theorem memoryCanonicalKept : Obligations.MemoryCanonicalKept := by
  intro s t hs h
  rw [step_eq] at h
  exact deliver_memoryCanonical (hs.of_eq (nextEvent_mem s) (nextEvent_cfg s)) h

/-! ### A store and the fetch after it -/

/-- What reg-dump stores stands at `I + r` (R154). -/
theorem byteAt_regDump {x r : Nibble} (h : MemoryCanonical s) (hin : s.base + x.toNat < memSize)
    (hr : r.toNat ≤ x.toNat) : (completed (.regDump x) s).byteAt (s.base + r.toNat) = s.getV r := by
  rw [completed, State.advance_byteAt, byteAt_stored _ _ _ h (by rw [length_regsUpTo]; omega),
    dif_pos (by rw [length_regsUpTo]; omega)]
  simp

/-- Settles O36: reg-dump completes with PC at `I + r`, where `V[r]` stands and `V[r + 1]` after it. -/
theorem storeSeenByNextFetch : Obligations.StoreSeenByNextFetch := by
  intro x r s t hs hin hr hpc h
  have hbase : s.base = s.i.toNat := rfl
  have hx := x.isLt
  have hrange : s.base + x.toNat < memSize := by simp only [memSize]; omega
  have htrap : trap (.regDump x) s = none := rangeTrap_eq_none.mpr (.inr hrange)
  obtain ⟨-, rfl⟩ | ⟨e, he, -⟩ := exec_cases h
  · have hsucc : (r + 1).toNat = r.toNat + 1 := by bv_omega
    have hadvance : (completed (.regDump x) s).pc = s.pc + 2 := rfl
    have hnext : (completed (.regDump x) s).pc.toNat = s.base + r.toNat := by rw [hadvance]; bv_omega
    rw [fetch_ok (by omega), hnext, byteAt_regDump hs hrange hr.le, add_assoc, ← hsucc,
      byteAt_regDump hs hrange (by omega)]
  · simp [htrap] at he

end Sys2Proof.Machine
end

section
/-! PROOF. The decoder and the encoder determine each other (O1, O2; R92); the ignored bits (O5; R90); sample words (O6;
R89). -/

namespace Sys2Proof

variable {w : Word} {i : Instr}

/-! ### The word of an instruction decodes to it -/

theorem packNNN_ne {g : Nibble} {a b : Addr} (h : a ≠ b) : packNNN g a ≠ packNNN g b := fun he =>
  h (by simpa using congrArg fieldNNN he)

/-- The no-op pattern with another address than those of clear-screen and return is a no-op (R88). -/
theorem decodeGroup0_noOp {nnn : Addr} (h0 : nnn ≠ 0x0E0) (h1 : nnn ≠ 0x0EE) :
    decodeGroup0 (packNNN 0 nnn) = .noOp nnn := by
  have hclear : packNNN 0 nnn ≠ 0x00E0#16 := packNNN_ne h0
  have hret : packNNN 0 nnn ≠ 0x00EE#16 := packNNN_ne h1
  rw [decodeGroup0, if_neg hclear, if_neg hret, fieldNNN_nnn]

theorem noOp_wellFormed_iff (nnn : Addr) : (Instr.noOp nnn).WellFormed ↔ nnn ≠ 0x0E0 ∧ nnn ≠ 0x0EE := by
  simp [Instr.WellFormed, Instr.wellFormed]

/-- Settles O1: each format gives its fields back, and the sub-opcode picks the operation again. -/
theorem decodeEncodeRoundTrip : Obligations.DecodeEncodeRoundTrip := by
  intro i hi
  cases i with
  | clearScreen | ret => rfl
  | noOp nnn =>
    obtain ⟨h0, h1⟩ := (noOp_wellFormed_iff nnn).mp hi
    rw [encode, decode, groupOf_nnn]
    exact congrArg Except.ok (decodeGroup0_noOp h0 h1)
  | jump | call | setIndex | jumpPlusV0 => simp [encode, decode]
  | skipEqImm | skipNeqImm | setImm | addImm | randomAnd => simp [encode, decode]
  | skipEqReg | skipNeqReg | drawSprite => simp [encode, decode]
  | setReg | orReg | andReg | xorReg | addReg | subReg | shiftRight | subRegRev | shiftLeft =>
    simp [encode, decode, decodeGroup8]
  | skipIfKeyPressed | skipIfKeyNotPressed => simp [encode, decode, decodeGroupE]
  | getDelayTimer | waitKey | setDelayTimer | setSoundTimer | addToIndex | fontCharAddress | storeBcd | regDump
  | regLoad => simp [encode, decode, decodeGroupF]

theorem decode_of_eq_encode (hi : i.WellFormed) (hw : w = encode i) : decode w = .ok i :=
  hw ▸ decodeEncodeRoundTrip i hi

/-! ### A decoded word is the word of its instruction -/

theorem packNNN_of_group {g : Nibble} (hg : groupOf w = g) : packNNN g (fieldNNN w) = w := by
  rw [← hg, word_eq_nnn]

theorem packXNN_of_fields {g : Nibble} {nn : Byte} (hg : groupOf w = g) (hnn : fieldNN w = nn) :
    packXNN g (fieldX w) nn = w := by
  rw [← hg, ← hnn, word_eq_xnn]

theorem packXYN_of_fields {g n : Nibble} (hg : groupOf w = g) (hn : fieldN w = n) :
    packXYN g (fieldX w) (fieldY w) n = w := by
  rw [← hg, ← hn, word_eq_xyn]

/-- The word decodes, to a well-formed instruction whose word it is. -/
def DecodesBack (w : Word) : Prop := ∃ i, decode w = .ok i ∧ i.WellFormed ∧ encode i = w

theorem decodeGroup0_inverse (hg : groupOf w = 0x0) :
    (decodeGroup0 w).WellFormed ∧ encode (decodeGroup0 w) = w := by
  have hw := packNNN_of_group hg
  unfold decodeGroup0
  split_ifs with hclear hret
  · exact ⟨rfl, hclear.symm⟩
  · exact ⟨rfl, hret.symm⟩
  · have hne (a : Addr) (h : w ≠ packNNN 0 a) : fieldNNN w ≠ a := fun he => h (by rw [← he, hw])
    exact ⟨(noOp_wellFormed_iff _).mpr ⟨hne 0x0E0 hclear, hne 0x0EE hret⟩, hw⟩

/-! In the groups with sub-opcodes, the arm that is taken gives the sub-opcode of the word. -/

theorem decodeGroup8_inverse (hg : groupOf w = 0x8) (h : decodeGroup8 w = .ok i) : i.WellFormed ∧ encode i = w := by
  unfold decodeGroup8 at h
  split at h <;> cases h <;> exact ⟨rfl, packXYN_of_fields hg (by assumption)⟩

theorem decodeGroupE_inverse (hg : groupOf w = 0xE) (h : decodeGroupE w = .ok i) : i.WellFormed ∧ encode i = w := by
  unfold decodeGroupE at h
  split at h <;> cases h <;> exact ⟨rfl, packXNN_of_fields hg (by assumption)⟩

theorem decodeGroupF_inverse (hg : groupOf w = 0xF) (h : decodeGroupF w = .ok i) : i.WellFormed ∧ encode i = w := by
  unfold decodeGroupF at h
  split at h <;> cases h <;> exact ⟨rfl, packXNN_of_fields hg (by assumption)⟩

theorem decode_group8 (hg : groupOf w = 0x8) : decode w = decodeGroup8 w := by rw [decode, hg]; rfl

theorem decode_groupE (hg : groupOf w = 0xE) : decode w = decodeGroupE w := by rw [decode, hg]; rfl

theorem decode_groupF (hg : groupOf w = 0xF) : decode w = decodeGroupF w := by rw [decode, hg]; rfl

theorem nibble_cases (g : Nibble) : g = 0x0 ∨ g = 0x1 ∨ g = 0x2 ∨ g = 0x3 ∨ g = 0x4 ∨ g = 0x5 ∨ g = 0x6 ∨ g = 0x7 ∨
    g = 0x8 ∨ g = 0x9 ∨ g = 0xA ∨ g = 0xB ∨ g = 0xC ∨ g = 0xD ∨ g = 0xE ∨ g = 0xF := by
  revert g; decide

/-- Outside the three groups with sub-opcodes (R87) every word decodes, and back to itself. -/
theorem decodesBack_or_subOpcode (w : Word) :
    DecodesBack w ∨ groupOf w = 0x8 ∨ groupOf w = 0xE ∨ groupOf w = 0xF := by
  obtain hg | hg | hg | hg | hg | hg | hg | hg | hg | hg | hg | hg | hg | hg | hg | hg := nibble_cases (groupOf w)
  · exact .inl ⟨decodeGroup0 w, by rw [decode, hg]; rfl, decodeGroup0_inverse hg⟩
  · exact .inl ⟨.jump _, by rw [decode, hg]; rfl, rfl, packNNN_of_group hg⟩
  · exact .inl ⟨.call _, by rw [decode, hg]; rfl, rfl, packNNN_of_group hg⟩
  · exact .inl ⟨.skipEqImm _ _, by rw [decode, hg]; rfl, rfl, packXNN_of_fields hg rfl⟩
  · exact .inl ⟨.skipNeqImm _ _, by rw [decode, hg]; rfl, rfl, packXNN_of_fields hg rfl⟩
  · exact .inl ⟨.skipEqReg _ _ _, by rw [decode, hg]; rfl, rfl, packXYN_of_fields hg rfl⟩
  · exact .inl ⟨.setImm _ _, by rw [decode, hg]; rfl, rfl, packXNN_of_fields hg rfl⟩
  · exact .inl ⟨.addImm _ _, by rw [decode, hg]; rfl, rfl, packXNN_of_fields hg rfl⟩
  · exact .inr (.inl hg)
  · exact .inl ⟨.skipNeqReg _ _ _, by rw [decode, hg]; rfl, rfl, packXYN_of_fields hg rfl⟩
  · exact .inl ⟨.setIndex _, by rw [decode, hg]; rfl, rfl, packNNN_of_group hg⟩
  · exact .inl ⟨.jumpPlusV0 _, by rw [decode, hg]; rfl, rfl, packNNN_of_group hg⟩
  · exact .inl ⟨.randomAnd _ _, by rw [decode, hg]; rfl, rfl, packXNN_of_fields hg rfl⟩
  · exact .inl ⟨.drawSprite _ _ _, by rw [decode, hg]; rfl, rfl, packXYN_of_fields hg rfl⟩
  · exact .inr (.inr (.inl hg))
  · exact .inr (.inr (.inr hg))

/-- Settles O2: the group, and in groups 8, E and F the sub-opcode, are the fixed bits of the word; the other bits are
the operands. -/
theorem encodeDecodeRoundTrip : Obligations.EncodeDecodeRoundTrip := by
  intro w i h
  obtain ⟨j, hj, hback⟩ | hg | hg | hg := decodesBack_or_subOpcode w
  · obtain rfl : j = i := Except.ok.inj (hj.symm.trans h)
    exact hback
  · exact decodeGroup8_inverse hg (decode_group8 hg ▸ h)
  · exact decodeGroupE_inverse hg (decode_groupE hg ▸ h)
  · exact decodeGroupF_inverse hg (decode_groupF hg ▸ h)

theorem eq_encode_of_decode (h : decode w = .ok i) : w = encode i :=
  have ⟨_, henc⟩ := encodeDecodeRoundTrip w i h
  henc.symm

/-! ### Words written with their ignored bits (R90) -/

open Machine

theorem wordXYN_or_eq (g m x y n : Nibble) : wordXYN (packXYN g 0 0 m) x y n = packXYN g x y (m ||| n) := by
  rw [← word_eq_xyn (wordXYN _ x y n)]
  simp [wordXYN, wordX]

theorem wordXYN_eq (g x y n : Nibble) : wordXYN (packXYN g 0 0 0) x y n = packXYN g x y n :=
  (wordXYN_or_eq g 0 x y n).trans (by simp)

/-- The sub-opcode N stands in the base. -/
theorem wordXYN_sub_eq (g n x y : Nibble) : wordXYN (packXYN g 0 0 n) x y 0 = packXYN g x y n :=
  (wordXYN_or_eq g n x y 0).trans (by simp)

theorem wordNNN_eq (g : Nibble) (nnn : Addr) : wordNNN (packNNN g 0) nnn = packNNN g nnn := by
  rw [← word_eq_nnn (wordNNN _ nnn)]
  simp [wordNNN]

/-- Settles O5: the two round trips say which words there are, and no handler reads an ignored operand. -/
theorem ignoredBitsHaveNoEffect : Obligations.IgnoredBitsHaveNoEffect := by
  refine ⟨fun x y n => ⟨?_, ?_⟩, fun x y => ⟨?_, ?_⟩, fun nnn h0 h1 => ?_, fun w => ⟨?_, ?_⟩, fun x y n nnn s => ?_⟩
  · exact decode_of_eq_encode rfl (wordXYN_eq 0x5 x y n)
  · exact decode_of_eq_encode rfl (wordXYN_eq 0x9 x y n)
  · exact decode_of_eq_encode rfl (wordXYN_sub_eq 0x8 0x6 x y)
  · exact decode_of_eq_encode rfl (wordXYN_sub_eq 0x8 0xE x y)
  · exact decode_of_eq_encode ((noOp_wellFormed_iff nnn).mpr ⟨h0, h1⟩) (wordNNN_eq 0x0 nnn)
  · exact ⟨eq_encode_of_decode, decode_of_eq_encode (i := .clearScreen) rfl⟩
  · exact ⟨eq_encode_of_decode, decode_of_eq_encode (i := .ret) rfl⟩
  · exact ⟨rfl, rfl, rfl, rfl, rfl⟩

/-- Settles O6: eleven closed words, run through the decoder. -/
theorem sampleWordsDecode : Obligations.SampleWordsDecode := by
  unfold Obligations.SampleWordsDecode
  decide

end Sys2Proof
end

section
/-! PROOF. The decoder agrees with the opcode map of R89 on every word (O3): a row that a word selects names the
instruction the word decodes to, and a word that decodes selects the row of its instruction. -/

namespace Sys2Proof

variable {w : Word} {r : OpRow}

/-! ### Every instruction has its row -/

open Laws in
theorem fixedBits : ∀ i : Instr, FixedBits.Statement i
  | .clearScreen => FixedBits.clearScreen
  | .ret => FixedBits.ret
  | .noOp nnn => FixedBits.noOp nnn
  | .jump nnn => FixedBits.jump nnn
  | .call nnn => FixedBits.call nnn
  | .skipEqImm x nn => FixedBits.skipEqImm x nn
  | .skipNeqImm x nn => FixedBits.skipNeqImm x nn
  | .skipEqReg x y n => FixedBits.skipEqReg x y n
  | .setImm x nn => FixedBits.setImm x nn
  | .addImm x nn => FixedBits.addImm x nn
  | .setReg x y => FixedBits.setReg x y
  | .orReg x y => FixedBits.orReg x y
  | .andReg x y => FixedBits.andReg x y
  | .xorReg x y => FixedBits.xorReg x y
  | .addReg x y => FixedBits.addReg x y
  | .subReg x y => FixedBits.subReg x y
  | .shiftRight x y => FixedBits.shiftRight x y
  | .subRegRev x y => FixedBits.subRegRev x y
  | .shiftLeft x y => FixedBits.shiftLeft x y
  | .skipNeqReg x y n => FixedBits.skipNeqReg x y n
  | .setIndex nnn => FixedBits.setIndex nnn
  | .jumpPlusV0 nnn => FixedBits.jumpPlusV0 nnn
  | .randomAnd x nn => FixedBits.randomAnd x nn
  | .drawSprite x y n => FixedBits.drawSprite x y n
  | .skipIfKeyPressed x => FixedBits.skipIfKeyPressed x
  | .skipIfKeyNotPressed x => FixedBits.skipIfKeyNotPressed x
  | .getDelayTimer x => FixedBits.getDelayTimer x
  | .waitKey x => FixedBits.waitKey x
  | .setDelayTimer x => FixedBits.setDelayTimer x
  | .setSoundTimer x => FixedBits.setSoundTimer x
  | .addToIndex x => FixedBits.addToIndex x
  | .fontCharAddress x => FixedBits.fontCharAddress x
  | .storeBcd x => FixedBits.storeBcd x
  | .regDump x => FixedBits.regDump x
  | .regLoad x => FixedBits.regLoad x

/-! ### The fields of a word that selects a row -/

@[simp] theorem groupOf_and (a b : Word) : groupOf (a &&& b) = groupOf a &&& groupOf b := by
  simp [groupOf, BitVec.extractLsb'_and]

@[simp] theorem fieldN_and (a b : Word) : fieldN (a &&& b) = fieldN a &&& fieldN b := by
  simp [fieldN, BitVec.extractLsb'_and]

@[simp] theorem fieldNN_and (a b : Word) : fieldNN (a &&& b) = fieldNN a &&& fieldNN b := by
  simp [fieldNN, BitVec.extractLsb'_and]

theorem selects_iff : r.selects w = true ↔ w &&& r.mask = r.bits := beq_iff_eq

theorem groupOf_of_selects (hmask : groupOf r.mask = 0xF) (h : r.selects w = true) : groupOf w = groupOf r.bits := by
  rw [← selects_iff.mp h, groupOf_and, hmask]
  exact BitVec.and_allOnes.symm

theorem fieldN_of_selects (hmask : fieldN r.mask = 0xF) (h : r.selects w = true) : fieldN w = fieldN r.bits := by
  rw [← selects_iff.mp h, fieldN_and, hmask]
  exact BitVec.and_allOnes.symm

theorem fieldNN_of_selects (hmask : fieldNN r.mask = 0xFF) (h : r.selects w = true) : fieldNN w = fieldNN r.bits := by
  rw [← selects_iff.mp h, fieldNN_and, hmask]
  exact BitVec.and_allOnes.symm

/-- A row without operands is selected by its own word only. -/
theorem eq_bits_of_selects (hmask : r.mask = 0xFFFF) (h : r.selects w = true) : w = r.bits := by
  rw [← selects_iff.mp h, hmask]
  exact BitVec.and_allOnes.symm

/-! ### A selected row names the operation -/

theorem opTable_groupMask : ∀ r ∈ opTable, groupOf r.mask = 0xF := by decide

theorem opTableAlu_fields : ∀ r ∈ opTableAlu, groupOf r.bits = 0x8 ∧ fieldN r.mask = 0xF := by decide

theorem opTableMisc_fields : ∀ r ∈ opTableMisc, groupOf r.bits = 0xF ∧ fieldNN r.mask = 0xFF := by decide

/-- The word decodes to the operation that the row names. -/
def DecodesTo (w : Word) (r : OpRow) : Prop := (decode w).toOption.map Instr.mnemonic = some r.name

theorem decodesTo_low (hclear : w ≠ 0x00E0) (hret : w ≠ 0x00EE) (hr : r ∈ opTableLow)
    (hg : groupOf w = groupOf r.bits) (h : r.selects w = true) : DecodesTo w r := by
  rw [DecodesTo, decode, hg]
  fin_cases hr
  · exact absurd (eq_bits_of_selects rfl h) hclear
  · exact absurd (eq_bits_of_selects rfl h) hret
  · have hnoOp : decodeGroup0 w = .noOp (fieldNNN w) := (if_neg hclear).trans (if_neg hret)
    exact congrArg (fun i => some (Instr.mnemonic i)) hnoOp
  all_goals rfl

theorem decodesTo_alu (hr : r ∈ opTableAlu) (hg : groupOf w = groupOf r.bits) (h : r.selects w = true) :
    DecodesTo w r := by
  obtain ⟨hgroup, hmask⟩ := opTableAlu_fields r hr
  rw [DecodesTo, decode_group8 (hg.trans hgroup), decodeGroup8, fieldN_of_selects hmask h]
  fin_cases hr <;> rfl

theorem decodesTo_high (hr : r ∈ opTableHigh) (hg : groupOf w = groupOf r.bits) (h : r.selects w = true) :
    DecodesTo w r := by
  rw [DecodesTo, decode, hg]
  fin_cases hr
  iterate 5 · rfl
  all_goals
    change (decodeGroupE w).toOption.map Instr.mnemonic = _
    rw [decodeGroupE, fieldNN_of_selects rfl h]
    rfl

theorem decodesTo_misc (hr : r ∈ opTableMisc) (hg : groupOf w = groupOf r.bits) (h : r.selects w = true) :
    DecodesTo w r := by
  obtain ⟨hgroup, hmask⟩ := opTableMisc_fields r hr
  rw [DecodesTo, decode_groupF (hg.trans hgroup), decodeGroupF, fieldNN_of_selects hmask h]
  fin_cases hr <;> rfl

/-- The no-op row is selected by the two fixed words of group 0 too, whose own rows stand before it (R88). -/
theorem decodesTo_of_selects (hclear : w ≠ 0x00E0) (hret : w ≠ 0x00EE) (hr : r ∈ opTable)
    (h : r.selects w = true) : DecodesTo w r := by
  have hg := groupOf_of_selects (opTable_groupMask r hr) h
  simp only [opTable, List.mem_append] at hr
  obtain ((hr | hr) | hr) | hr := hr
  · exact decodesTo_low hclear hret hr hg h
  · exact decodesTo_alu hr hg h
  · exact decodesTo_high hr hg h
  · exact decodesTo_misc hr hg h

/-- The words that decode select a row, that of their instruction. -/
theorem exists_selects_of_decode {i : Instr} (h : decode w = .ok i) : ∃ r ∈ opTable, r.selects w = true := by
  obtain ⟨r, hr, -, hbits⟩ := fixedBits i
  exact ⟨r, hr, selects_iff.mpr (eq_encode_of_decode h ▸ hbits)⟩

/-- A refused word is refused under its own name, and every other word decodes. -/
theorem decode_error_or_ok (w : Word) : decode w = .error (.unsupported w) ∨ ∃ i, decode w = .ok i := by
  cases h : decode w with
  | error r => exact .inl (by rw [decode_error h])
  | ok i => exact .inr ⟨i, rfl⟩

/-- Settles O3: the row that is found names the operation, and when none is found the word does not decode.
The two fixed words, which select no-op too, are looked up. -/
theorem decodeAgreesWithOpcodeTable : Obligations.DecodeAgreesWithOpcodeTable := by
  intro w
  by_cases hclear : w = 0x00E0
  · subst hclear; decide
  by_cases hret : w = 0x00EE
  · subst hret; decide
  rw [lookupName]
  cases hfind : opTable.find? fun r => r.selects w with
  | some r =>
    have hselects : r.selects w = true := List.find?_some (p := fun r : OpRow => r.selects w) hfind
    exact (decodesTo_of_selects hclear hret (List.mem_of_find?_eq_some hfind) hselects).symm
  | none =>
    obtain h | ⟨i, h⟩ := decode_error_or_ok w
    · rw [h]; rfl
    · obtain ⟨r, hr, hselects⟩ := exists_selects_of_decode h
      exact absurd hselects (List.find?_eq_none.mp hfind r hr)

end Sys2Proof
end

section
/-! PROOF. The refused words (R91): which they are and how many (O4), and the exception of a cycle that fetches one (O13,
R93). -/

namespace Sys2Proof

variable {w : Word}

/-! ### Which words are refused -/

/-- The values of N that group 8 refuses (R91). -/
def refusedN : List Nibble := [0x8#4, 0x9#4, 0xA#4, 0xB#4, 0xC#4, 0xD#4, 0xF#4]

/-- The sub-opcodes of group E (R87). -/
def keySubOps : List Byte := [0x9E#8, 0xA1#8]

/-- The sub-opcodes of group F (R87). -/
def miscSubOps : List Byte := [0x07#8, 0x0A#8, 0x15#8, 0x18#8, 0x1E#8, 0x29#8, 0x33#8, 0x55#8, 0x65#8]

theorem mem_refusedN_iff (n : Nibble) :
    n ∈ refusedN ↔ n ∉ [0x0#4, 0x1#4, 0x2#4, 0x3#4, 0x4#4, 0x5#4, 0x6#4, 0x7#4, 0xE#4] := by
  revert n; decide

theorem decodeGroup8_error_iff : decodeGroup8 w = .error (.unsupported w) ↔ fieldN w ∈ refusedN := by
  rw [mem_refusedN_iff, decodeGroup8]
  split <;> simp_all

theorem decodeGroupE_error_iff : decodeGroupE w = .error (.unsupported w) ↔ fieldNN w ∉ keySubOps := by
  rw [keySubOps, decodeGroupE]
  split <;> simp_all

theorem decodeGroupF_error_iff : decodeGroupF w = .error (.unsupported w) ↔ fieldNN w ∉ miscSubOps := by
  rw [miscSubOps, decodeGroupF]
  split <;> simp_all

/-- Only the groups with sub-opcodes refuse words, each those without one of its sub-opcodes (R91). -/
theorem decode_error_iff (w : Word) : decode w = .error (.unsupported w) ↔
    (groupOf w = 0x8 ∧ fieldN w ∈ refusedN) ∨ (groupOf w = 0xE ∧ fieldNN w ∉ keySubOps) ∨
      (groupOf w = 0xF ∧ fieldNN w ∉ miscSubOps) := by
  rw [← decodeGroup8_error_iff, ← decodeGroupE_error_iff, ← decodeGroupF_error_iff]
  constructor
  · intro h
    obtain ⟨i, hi, -⟩ | hg | hg | hg := decodesBack_or_subOpcode w
    · cases hi.symm.trans h
    · exact .inl ⟨hg, decode_group8 hg ▸ h⟩
    · exact .inr (.inl ⟨hg, decode_groupE hg ▸ h⟩)
    · exact .inr (.inr ⟨hg, decode_groupF hg ▸ h⟩)
  · rintro (⟨hg, h⟩ | ⟨hg, h⟩ | ⟨hg, h⟩)
    · rwa [decode_group8 hg]
    · rwa [decode_groupE hg]
    · rwa [decode_groupF hg]

end Sys2Proof

namespace Sys2Proof.Machine

variable {w : Word}

theorem rejected_iff_unsupported (w : Word) : rejected w = true ↔ decode w = .error (.unsupported w) := by
  obtain h | ⟨i, h⟩ := decode_error_or_ok w <;> simp [rejected, h, Except.toOption]

/-! ### `rejected` as a test on the group and on NN

The tests below are counted by evaluation, which the decoder itself would make too long. -/

/-- The test of R91 on the two fields, N being the low half of NN. -/
def refusedFields (g : Nibble) (nn : Byte) : Bool :=
  (g == 0x8 && decide (nn.extractLsb' 0 4 ∈ refusedN)) || (g == 0xE && decide (nn ∉ keySubOps)) ||
    (g == 0xF && decide (nn ∉ miscSubOps))

theorem lowNibble_fieldNN (w : Word) : (fieldNN w).extractLsb' 0 4 = fieldN w := by
  ext k hk
  simp [fieldNN, fieldN]

theorem rejected_eq (w : Word) : rejected w = refusedFields (groupOf w) (fieldNN w) := by
  rw [Bool.eq_iff_iff, rejected_iff_unsupported, decode_error_iff]
  simp only [refusedFields, lowNibble_fieldNN, Bool.or_eq_true, Bool.and_eq_true, beq_iff_eq, decide_eq_true_eq,
    or_assoc]

/-! ### Counting words -/

theorem ofNat_eq_wordOfBytes {h l : Nat} (hl : l < 256) :
    BitVec.ofNat 16 (256 * h + l) = wordOfBytes (BitVec.ofNat 8 h) (BitVec.ofNat 8 l) := by
  apply BitVec.eq_of_toNat_eq
  rw [wordOfBytes_toNat]
  simp only [BitVec.toNat_ofNat]
  omega

theorem groupOf_wordOfBytes (hi lo : Byte) : groupOf (wordOfBytes hi lo) = hi.extractLsb' 4 4 := by
  ext k hk
  simp only [groupOf, wordOfBytes, BitVec.getElem_extractLsb', BitVec.getLsbD_append]
  rw [if_neg (by omega), show 12 + k - 8 = 4 + k by omega]

theorem fieldNN_wordOfBytes (hi lo : Byte) : fieldNN (wordOfBytes hi lo) = lo := by
  ext k hk
  simp only [fieldNN, wordOfBytes, BitVec.getElem_extractLsb', BitVec.getLsbD_append]
  rw [if_pos (by omega)]
  simp [hk]

theorem countWords_eq_bytes (p : Word → Bool) :
    countWords p = ((List.range 256).map fun h =>
      (List.range 256).countP fun l => p (wordOfBytes (BitVec.ofNat 8 h) (BitVec.ofNat 8 l))).sum := by
  refine congrArg List.sum (List.map_congr_left fun h _ => List.countP_congr fun l hl => ?_)
  rw [ofNat_eq_wordOfBytes (List.mem_range.mp hl)]

/-- A group has 16 high bytes, and with each of them every low byte once. -/
theorem countWords_group (g : Nibble) (q : Byte → Bool) :
    countWords (fun w => groupOf w == g && q (fieldNN w))
      = 16 * (List.range 256).countP fun l => q (BitVec.ofNat 8 l) := by
  have hhigh : (List.range 256).countP (fun h => (BitVec.ofNat 8 h).extractLsb' 4 4 = g) = 16 := by
    revert g; decide +kernel
  have hlow (h : Nat) :
      (List.range 256).countP (fun l => (BitVec.ofNat 8 h).extractLsb' 4 4 == g && q (BitVec.ofNat 8 l))
        = if (BitVec.ofNat 8 h).extractLsb' 4 4 = g then (List.range 256).countP (fun l => q (BitVec.ofNat 8 l))
          else 0 := by
    split <;> simp [*]
  simp only [countWords_eq_bytes, groupOf_wordOfBytes, fieldNN_wordOfBytes, hlow, List.sum_map_ite, List.map_const',
    List.sum_replicate, ← List.countP_eq_length_filter, hhigh, smul_eq_mul, mul_zero, add_zero]

theorem countWords_split (p q : Word → Bool) :
    countWords p = countWords (fun w => p w && q w) + countWords (fun w => p w && !q w) := by
  simp only [countWords, ← List.sum_map_add, ← List.countP_filter]
  exact congrArg List.sum (List.map_congr_left fun h _ => List.countP_eq_countP_filter_add _ _ _)

theorem countWords_or {p q : Word → Bool} (h : ∀ w, p w = true → q w = false) :
    countWords (fun w => p w || q w) = countWords p + countWords q := by
  have hp : (fun w => (p w || q w) && p w) = p := by funext w; cases p w <;> simp
  have hq : (fun w => (p w || q w) && !p w) = q := by funext w; cases hw : p w <;> simp [h w, hw]
  rw [countWords_split (fun w => p w || q w) p, hp, hq]

theorem countWords_true : countWords (fun _ => true) = 65536 := by
  simp only [countWords, List.countP_true, List.length_range, List.map_const', List.sum_replicate, smul_eq_mul]

theorem countWords_not (p : Word → Bool) : countWords p + countWords (fun w => !p w) = 65536 := by
  simpa only [Bool.true_and, countWords_true] using (countWords_split (fun _ => true) p).symm

/-! ### How many words are refused -/

theorem countWords_rejected_group (g : Nibble) : countWords (fun w => rejected w && groupOf w == g)
    = 16 * (List.range 256).countP fun l => refusedFields g (BitVec.ofNat 8 l) := by
  rw [← countWords_group g (refusedFields g)]
  refine congrArg countWords (funext fun w => ?_)
  rw [rejected_eq]
  by_cases h : groupOf w = g
  · rw [h, Bool.and_comm]
  · rw [beq_false_of_ne h, Bool.and_false, Bool.false_and]

theorem countWords_rejected_group8 : countWords (fun w => rejected w && groupOf w == 0x8) = 1792 := by
  rw [countWords_rejected_group]; decide +kernel

theorem countWords_rejected_groupE : countWords (fun w => rejected w && groupOf w == 0xE) = 4064 := by
  rw [countWords_rejected_group]; decide +kernel

theorem countWords_rejected_groupF : countWords (fun w => rejected w && groupOf w == 0xF) = 3952 := by
  rw [countWords_rejected_group]; decide +kernel

theorem rejected_eq_groups : rejected = fun w => (rejected w && groupOf w == 0x8) ||
    ((rejected w && groupOf w == 0xE) || (rejected w && groupOf w == 0xF)) := by
  funext w
  cases h : rejected w with
  | false => rfl
  | true =>
    have hdecode := (rejected_iff_unsupported w).mp h
    obtain ⟨hg, -⟩ | ⟨hg, -⟩ | ⟨hg, -⟩ := (decode_error_iff w).mp hdecode <;> rw [hg] <;> rfl

theorem rejected_group_disjoint {g g' : Nibble} (hne : g ≠ g') (w : Word)
    (h : (rejected w && groupOf w == g) = true) : (rejected w && groupOf w == g') = false := by
  obtain ⟨-, hg⟩ := Bool.and_eq_true_iff.mp h
  rw [beq_iff_eq.mp hg, beq_false_of_ne hne, Bool.and_false]

theorem countWords_rejected : countWords rejected = 9808 := by
  have h8 (w : Word) (h : (rejected w && groupOf w == 0x8) = true) :
      ((rejected w && groupOf w == 0xE) || (rejected w && groupOf w == 0xF)) = false := by
    rw [rejected_group_disjoint (by decide) w h, rejected_group_disjoint (by decide) w h, Bool.or_false]
  rw [rejected_eq_groups, countWords_or h8, countWords_or (rejected_group_disjoint (by decide)),
    countWords_rejected_group8, countWords_rejected_groupE, countWords_rejected_groupF]

theorem countWords_not_rejected : countWords (fun w => !rejected w) = 55728 := by
  have h := countWords_not rejected
  rw [countWords_rejected] at h
  exact Nat.add_left_cancel (h.trans (by decide : 65536 = 9808 + 55728))

/-- Settles O4: which words are refused by the sub-opcodes of the three groups, and their number group by group. -/
theorem unsupportedWordsExactly : Obligations.UnsupportedWordsExactly :=
  ⟨decode_error_iff, decode_error_or_ok, countWords_rejected_group8, countWords_rejected_groupE,
    countWords_rejected_groupF, countWords_rejected, countWords_not_rejected⟩

/-! ### A cycle that fetches a refused word -/

variable {s : State}

theorem step_of_cycle {rnd : Byte} (h : (nextEvent s).1 = .cycle rnd) : step s = cycle (cycleInput s rnd) := by
  rw [step_eq, h]
  rfl

@[simp] theorem cycleInput_fault (s : State) (rnd : Byte) : (cycleInput s rnd).fault = s.fault := nextEvent_fault s

@[simp] theorem cycleInput_halt (s : State) (rnd : Byte) : (cycleInput s rnd).halt = s.halt := nextEvent_halt s

@[simp] theorem cycleInput_pc (s : State) (rnd : Byte) : (cycleInput s rnd).pc = s.pc := (nextEvent_sameCore s).pc

@[simp] theorem cycleInput_fetch (s : State) (rnd : Byte) : fetch (cycleInput s rnd) = fetch s := nextEvent_fetch s

theorem cycle_unsupported (hf : s.fault = none) (hh : s.halt = false) (hw : fetch s = .ok w)
    (hd : decode w = .error (.unsupported w)) : cycle s = .next (faulted s (.unsupportedInstruction w)) := by
  simp [cycle, hf, hh, hw, hd]

/-- Settles O13: the step is the cycle of the state that took the event, and the cycle raises. -/
theorem unsupportedWordRaises : Obligations.UnsupportedWordRaises := by
  intro s rnd w he hf hh hw hrej
  refine ⟨(step_of_cycle he).trans ?_, cycleInput_pc s rnd⟩
  exact cycle_unsupported (by simp [hf]) (by simp [hh]) (by simp [hw]) ((rejected_iff_unsupported w).mp hrej)

end Sys2Proof.Machine
end

section
/-! PROOF. The control-flow instructions (R110 to R118): call and return (O29, O30) and the two together (O31), no-op
and the jumps (O27), the skips on registers and immediates (O28). -/

namespace Sys2Proof

open Machine

theorem wordXNN_eq (g x : Nibble) (nn : Byte) : wordXNN (packXNN g 0 0) x nn = packXNN g x nn := by
  rw [← word_eq_xnn (wordXNN _ x nn)]
  simp [wordXNN, wordX]

end Sys2Proof

namespace Sys2Proof.Machine

variable {s : State} {i : Instr}

/-- An instruction that raises nothing completes (R203). -/
theorem exec_completed (h : trap i s = none) : exec i s = .next (completed i s) := by
  rw [exec_eq, h]
  rfl

/-- An instruction that raises changes the latch and the record of outputs only (R241). -/
theorem exec_faulted {e : Exception} (h : trap i s = some e) : exec i s = .next (faulted s e) := by
  rw [exec_eq, h]
  rfl

/-! ### The stack -/

/-- Settles O29: with SP = 15 the trap of the call is taken, else the slot at SP is written. -/
theorem callInstruction : Obligations.CallInstruction := by
  refine fun nnn s => ⟨decode_of_eq_encode rfl (wordNNN_eq 0x2 nnn), fun hsp => ?_,
    fun hsp => exec_faulted (if_pos hsp)⟩
  have hpush : (s.sp + 1).toNat = s.sp.toNat + 1 := by revert hsp; bv_omega
  exact ⟨completed (.call nnn) s, exec_completed (if_neg hsp), rfl, hpush,
    fun j => State.getStack_setStack s s.sp j (s.pc + 2), completed_frame (.call nnn) s⟩

/-- Settles O30: with SP = 0 the trap of the return is taken, else the slot below SP is read. -/
theorem returnInstruction : Obligations.ReturnInstruction := by
  refine ⟨rfl, fun s => ⟨fun hsp => ?_, fun hsp => exec_faulted (if_pos hsp)⟩⟩
  have hpop : (s.sp - 1).toNat + 1 = s.sp.toNat := by bv_omega
  exact ⟨completed .ret s, exec_completed (if_neg hsp), rfl, hpop, fun _ => rfl, completed_frame .ret s⟩

/-- Settles O31: the return finds SP one above the call's, so it reads the slot that the call wrote. -/
theorem callThenReturnRestores : Obligations.CallThenReturnRestores := by
  intro nnn s t u hsp hcall husp hslot
  obtain ⟨-, hcompletes, -⟩ := callInstruction nnn s
  obtain ⟨t', ht', -, htsp, htstack, -⟩ := hcompletes hsp
  obtain rfl : t' = t := Host.Outcome.next.inj (ht'.symm.trans hcall)
  rw [← husp] at htsp
  have hpop : u.sp - 1 = s.sp := by bv_omega
  obtain ⟨r, hret, hrpc, hrsp, -⟩ := (returnInstruction.2 u).1 (by bv_omega)
  refine ⟨r, hret, ?_, by bv_omega⟩
  rw [hrpc, hpop, hslot, htstack, if_pos rfl]

/-! ### Instructions that only write PC -/

/-- An instruction that raises nothing and whose row of R21 names no piece of state writes PC only. -/
theorem writesPc_completed (htrap : trap i s = none) (htouch : touches i = {}) : WritesPc i s (completed i s).pc :=
  ⟨completed i s, exec_completed htrap, rfl, htouch ▸ completed_frame i s⟩

/-- The sum of jump-plus-v0 is exact in 16 bits (R118). -/
theorem jumpTarget_toNat (nnn : Addr) (b : Byte) :
    (nnn.setWidth 16 + b.setWidth 16 : Word).toNat = nnn.toNat + b.toNat := by
  have hnnn := nnn.isLt
  have hb := b.isLt
  simp only [BitVec.toNat_add, BitVec.toNat_setWidth]
  omega

/-- Settles O27: none of the three raises, and each leaves PC at its target. -/
theorem noOpAndJumpInstructions : Obligations.NoOpAndJumpInstructions := by
  refine fun nnn s => ⟨fun h0 h1 => ?_, writesPc_completed rfl rfl, ?_, writesPc_completed rfl rfl, ?_,
    writesPc_completed rfl rfl, jumpTarget_toNat nnn (s.getV 0)⟩
  · exact decode_of_eq_encode ((noOp_wellFormed_iff nnn).mpr ⟨h0, h1⟩) (wordNNN_eq 0x0 nnn)
  · exact decode_of_eq_encode rfl (wordNNN_eq 0x1 nnn)
  · exact decode_of_eq_encode rfl (wordNNN_eq 0xB nnn)

/-- A skip writes PC only, and its condition chooses between the two targets (R114). -/
theorem writesPc_skipped {cond : Bool} {p : Prop} [Decidable p] (hcond : cond = true ↔ p) (htrap : trap i s = none)
    (htouch : touches i = {}) (hskip : completed i s = skipped cond s) :
    WritesPc i s (if p then s.pc + 4 else s.pc + 2) := by
  have hpc : (completed i s).pc = if p then s.pc + 4 else s.pc + 2 := by
    simp only [hskip, skipped, State.setPc_pc, hcond]
  exact hpc ▸ writesPc_completed htrap htouch

/-- Settles O28: none of the four raises, and each is the skip of its condition. -/
theorem skipInstructions : Obligations.SkipInstructions := by
  refine ⟨fun x nn s => ⟨?_, ?_, ?_, ?_⟩, fun x y n s => ⟨?_, ?_, ?_, ?_⟩⟩
  · exact decode_of_eq_encode rfl (wordXNN_eq 0x3 x nn)
  · exact writesPc_skipped beq_iff_eq rfl rfl rfl
  · exact decode_of_eq_encode rfl (wordXNN_eq 0x4 x nn)
  · exact writesPc_skipped bne_iff_ne rfl rfl rfl
  · exact decode_of_eq_encode rfl (wordXYN_eq 0x5 x y n)
  · exact writesPc_skipped beq_iff_eq rfl rfl rfl
  · exact decode_of_eq_encode rfl (wordXYN_eq 0x9 x y n)
  · exact writesPc_skipped bne_iff_ne rfl rfl rfl

end Sys2Proof.Machine
end

section
/-! PROOF. The register and arithmetic instructions (R132 to R143): those that write VX alone (O24), those that write VF
and then VX (O25), random-and (O26). -/

namespace Sys2Proof.Machine

variable {s : State} {i : Instr} {x : Nibble}

/-! ### Instructions that write one register -/

/-- An instruction that raises nothing and whose row of R21 names the registers only, completing with one write. -/
theorem writesReg_completed {b : Byte} (htrap : trap i s = none) (htouch : touches i = { v := true })
    (hwrite : completed i s = (s.setV x b).advance) : WritesReg i s x b := by
  refine ⟨completed i s, exec_completed htrap, ?_, fun r => ?_, htouch ▸ completed_frame i s⟩
  · rw [hwrite]
    rfl
  · rw [hwrite, State.advance_getV, State.getV_setV]

/-- Settles O24: none of the six raises, and each writes its result once; the exact sum of add-imm, narrowed, is the
wrapping one. -/
theorem registerInstructions : Obligations.RegisterInstructions := by
  refine ⟨fun x nn s => ⟨?_, ?_, ?_, ?_⟩, fun x y s => ⟨?_, ?_, ?_, ?_, ?_, ?_, ?_, ?_⟩⟩
  · exact decode_of_eq_encode rfl (wordXNN_eq 0x6 x nn)
  · exact writesReg_completed rfl rfl rfl
  · exact decode_of_eq_encode rfl (wordXNN_eq 0x7 x nn)
  · exact addResult_eq (s.getV x) nn ▸ writesReg_completed rfl rfl rfl
  · exact decode_of_eq_encode rfl (wordXYN_sub_eq 0x8 0x0 x y)
  · exact writesReg_completed rfl rfl rfl
  · exact decode_of_eq_encode rfl (wordXYN_sub_eq 0x8 0x1 x y)
  · exact writesReg_completed rfl rfl rfl
  · exact decode_of_eq_encode rfl (wordXYN_sub_eq 0x8 0x2 x y)
  · exact writesReg_completed rfl rfl rfl
  · exact decode_of_eq_encode rfl (wordXYN_sub_eq 0x8 0x3 x y)
  · exact writesReg_completed rfl rfl rfl

/-- Settles O26: random-and raises nothing, and the byte it masks is the one presented. -/
theorem randomAndInstruction : Obligations.RandomAndInstruction := fun x nn _ _ =>
  ⟨decode_of_eq_encode rfl (wordXNN_eq 0xC x nn), writesReg_completed rfl rfl rfl⟩

/-! ### Flags (R130) -/

theorem flagByte_decide (p : Prop) [Decidable p] : flagByte (decide p) = if p then 1 else 0 := by
  simp [flagByte]

theorem carry_eq (a b : Byte) : carry a b = if a.toNat + b.toNat > 255 then 1 else 0 := flagByte_decide _

theorem noBorrow_eq (a b : Byte) : noBorrow a b = if a.toNat ≥ b.toNat then 1 else 0 := flagByte_decide _

/-- The remainder of the halving is bit 0. -/
theorem shrOut_eq (a : Byte) : shrOut a = if a.getLsbD 0 then 1 else 0 := by
  revert a
  decide

/-- The quotient by 128 is bit 7. -/
theorem shlOut_eq (a : Byte) : shlOut a = if a.getLsbD 7 then 1 else 0 := by
  revert a
  decide

/-! ### Instructions that write VF, then a register -/

/-- An instruction that raises nothing and whose row of R21 names the registers only, completing with the two writes of
R131; its flag and result may be given in another form than the handler computes them in. -/
theorem writesRegFlag_completed {f flag r b : Byte} (htrap : trap i s = none) (htouch : touches i = { v := true })
    (hwrite : completed i s = (flagged x f r s).advance) (hflag : f = flag) (hresult : r = b) :
    WritesRegFlag i s x flag b := by
  subst hflag hresult
  refine ⟨completed i s, exec_completed htrap, ?_, fun q => ?_, htouch ▸ completed_frame i s⟩
  · rw [hwrite]
    rfl
  · rw [hwrite]
    exact getV_flagged s x q f r

/-- Settles O25: none of the five raises, and each writes VF and then VX; the exact flags and results are the bits and
the wrapping results. -/
theorem flagInstructions : Obligations.FlagInstructions := by
  refine fun x y s => ⟨?_, ?_, ?_, ?_, ?_, ?_, ?_, ?_, ?_, ?_⟩
  · exact decode_of_eq_encode rfl (wordXYN_sub_eq 0x8 0x4 x y)
  · exact writesRegFlag_completed rfl rfl rfl (carry_eq _ _) (addResult_eq _ _)
  · exact decode_of_eq_encode rfl (wordXYN_sub_eq 0x8 0x5 x y)
  · exact writesRegFlag_completed rfl rfl rfl (noBorrow_eq _ _) (subResult_eq _ _)
  · exact decode_of_eq_encode rfl (wordXYN_sub_eq 0x8 0x6 x y)
  · exact writesRegFlag_completed rfl rfl rfl (shrOut_eq _) (shrResult_eq _)
  · exact decode_of_eq_encode rfl (wordXYN_sub_eq 0x8 0x7 x y)
  · exact writesRegFlag_completed rfl rfl rfl (noBorrow_eq _ _) (subResult_eq _ _)
  · exact decode_of_eq_encode rfl (wordXYN_sub_eq 0x8 0xE x y)
  · exact writesRegFlag_completed rfl rfl rfl (shlOut_eq _) (shlResult_eq _)

end Sys2Proof.Machine
end

section
/-! PROOF. The index-register and memory instructions (R150 to R155): those that write I (O32), the stores store-bcd
(O33) and reg-dump (O34), the load reg-load (O35). -/

namespace Sys2Proof

open Machine

/-- The sub-opcode NN stands in the base. -/
theorem wordX_eq (g x : Nibble) (nn : Byte) : wordX (packXNN g 0 nn) x = packXNN g x nn := by
  rw [← word_eq_xnn (wordX _ x)]
  simp [wordX]

end Sys2Proof

namespace Sys2Proof.Machine

variable {s : State} {i : Instr}

/-! ### Instructions that write I -/

/-- An instruction that raises nothing and whose row of R21 names I only, completing with one write. -/
theorem writesIndex_completed {w : Word} (htrap : trap i s = none) (htouch : touches i = { i := true })
    (hwrite : completed i s = (s.setI w).advance) : WritesIndex i s w := by
  refine ⟨completed i s, exec_completed htrap, ?_, ?_, htouch ▸ completed_frame i s⟩
  · rw [hwrite, State.advance_pc, State.setI_pc]
  · rw [hwrite, State.advance_i, State.setI_i]

/-- The address of a glyph is exact in 16 bits, the whole byte being multiplied (R152). -/
theorem glyphAddress_toNat (b : Byte) : (BitVec.ofNat 16 (b.toNat * 5)).toNat = b.toNat * 5 := by
  have hb := b.isLt
  exact Nat.mod_eq_of_lt (by omega)

/-- Settles O32: none of the three raises, and each writes I once. -/
theorem indexInstructions : Obligations.IndexInstructions := by
  refine ⟨fun nnn s => ⟨?_, writesIndex_completed rfl rfl rfl⟩, fun x s => ⟨?_, writesIndex_completed rfl rfl rfl, ?_,
    _, glyphAddress_toNat (s.getV x), writesIndex_completed rfl rfl rfl⟩⟩
  · exact decode_of_eq_encode rfl (wordNNN_eq 0xA nnn)
  · exact decode_of_eq_encode rfl (wordX_eq 0xF x 0x1E)
  · exact decode_of_eq_encode rfl (wordX_eq 0xF x 0x29)

/-! ### Runs of bytes from I on -/

/-- A run of `n + 1` bytes whose last is in memory raises nothing (R51). -/
theorem rangeTrap_eq_none_of_le {kind : FaultKind} {base n : Nat} (h : base + n ≤ 4095) :
    rangeTrap kind base (n + 1) = none :=
  rangeTrap_eq_none.mpr (.inr (Nat.succ_le_succ h))

/-- A run of `n + 1` bytes whose last is outside memory raises, naming the lowest bad address (R51). -/
theorem rangeTrap_eq_some {kind : FaultKind} {base n : Nat} (h : 4095 < base + n) :
    rangeTrap kind base (n + 1) = some (.memoryFault kind (max base 4096)) :=
  if_neg (by simp only [memSize]; omega)

/-! ### Stores -/

/-- The digits of a byte stand from I on, hundreds first (R153). -/
theorem byteAt_storeBcd {x : Nibble} {k : Nat} (h : MemoryCanonical s) (hin : s.base + 2 ≤ 4095)
    (hk : k < (bcdDigits (s.getV x)).length) :
    (completed (.storeBcd x) s).byteAt (s.base + k) = (bcdDigits (s.getV x))[k] := by
  rw [completed, State.advance_byteAt, byteAt_stored _ _ _ h (Nat.succ_le_succ hin), dif_pos (by omega)]
  simp

/-- Settles O33: the range of three bytes decides between the trap and the store, and each digit fits a byte. -/
theorem storeBcdInstruction : Obligations.StoreBcdInstruction := by
  refine fun x s => ⟨decode_of_eq_encode rfl (wordX_eq 0xF x 0x33), fun hs hin => ?_,
    fun hout => exec_faulted (rangeTrap_eq_some hout)⟩
  have hb := (s.getV x).isLt
  have digit {k d : Nat} (hk : k < 3) (hd : d < 2 ^ 8) (hdigit : (bcdDigits (s.getV x))[k] = BitVec.ofNat 8 d) :
      ((completed (.storeBcd x) s).byteAt (s.base + k)).toNat = d := by
    rw [byteAt_storeBcd hs hin hk, hdigit, BitVec.toNat_ofNat, Nat.mod_eq_of_lt hd]
  refine ⟨completed (.storeBcd x) s, exec_completed (rangeTrap_eq_none_of_le hin), rfl, ?_, ?_, ?_, fun a ha => ?_,
    completed_frame (.storeBcd x) s⟩
  · exact digit (k := 0) (by decide) (by omega) rfl
  · exact digit (by decide) (by omega) rfl
  · exact digit (by decide) (by omega) rfl
  · exact byteAt_stored_outside s s.base (bcdDigits (s.getV x)) a ha

/-- Settles O34: the range of X + 1 bytes decides between the trap and the store. -/
theorem regDumpInstruction : Obligations.RegDumpInstruction := by
  refine fun x s => ⟨decode_of_eq_encode rfl (wordX_eq 0xF x 0x55), fun hs hin => ?_,
    fun hout => exec_faulted (rangeTrap_eq_some hout)⟩
  refine ⟨completed (.regDump x) s, exec_completed (rangeTrap_eq_none_of_le hin), rfl, fun r hr => ?_, fun a ha => ?_,
    completed_frame (.regDump x) s⟩
  · exact byteAt_regDump hs (Nat.lt_succ_of_le hin) hr
  · exact byteAt_stored_outside s s.base (s.regsUpTo x) a (by rw [length_regsUpTo]; exact ha)

/-! ### The load -/

/-- Settles O35: the range of X + 1 bytes decides between the trap and the load, which replaces the registers up to X
and keeps the others. -/
theorem regLoadInstruction : Obligations.RegLoadInstruction := fun x s =>
  ⟨decode_of_eq_encode rfl (wordX_eq 0xF x 0x65),
    fun hin => ⟨completed (.regLoad x) s, exec_completed (rangeTrap_eq_none_of_le hin), rfl,
      State.getV_regsFromMem s x, completed_frame (.regLoad x) s⟩,
    fun hout => exec_faulted (rangeTrap_eq_some hout)⟩

end Sys2Proof.Machine
end

section
/-! PROOF. The display instructions (R165 to R171): clear-screen (O38), when draw-sprite completes (O39), where a bit of
a sprite lands (O41), which pixels flip (O40), what VF is after it (O42), and the same sprite drawn twice (O43). -/

namespace Sys2Proof.Machine

variable {s t : State} {x y n : Nibble}

/-- Settles O38: clear-screen raises nothing, and an empty buffer lights no pixel. -/
theorem clearScreenInstruction : Obligations.ClearScreenInstruction :=
  ⟨rfl, fun s => ⟨completed .clearScreen s, rfl, rfl, fun _ => rfl, rfl, completed_frame .clearScreen s⟩⟩

/-! ### When draw-sprite completes -/

/-- A sprite without rows, or with all its rows in memory, raises nothing (R166). -/
theorem trap_drawSprite (hin : n = 0 ∨ s.i.toNat + n.toNat ≤ 4096) : trap (.drawSprite x y n) s = none :=
  rangeTrap_eq_none.mpr (hin.imp_left (congrArg BitVec.toNat))

theorem eq_completed_of_drawSprite (hin : n = 0 ∨ s.i.toNat + n.toNat ≤ 4096)
    (h : exec (.drawSprite x y n) s = .next t) : t = completed (.drawSprite x y n) s :=
  Host.Outcome.next.inj (h.symm.trans (exec_completed (trap_drawSprite hin)))

/-- Settles O39: the range of N bytes from I decides between the trap and the drawing, which writes VF alone of the
registers. -/
theorem drawSpriteCompletesOrRaises : Obligations.DrawSpriteCompletesOrRaises := by
  refine fun x y n s => ⟨decode_of_eq_encode rfl (wordXYN_eq 0xD x y n), fun hin => ?_, fun hn hout => ?_⟩
  · exact ⟨completed (.drawSprite x y n) s, exec_completed (trap_drawSprite hin), rfl,
      fun r hr => completed_getV (by simpa [writesReg] using hr), rfl, completed_frame (.drawSprite x y n) s⟩
  · have hcount : n.toNat ≠ 0 := fun h => hn (BitVec.eq_of_toNat_eq h)
    exact exec_faulted (if_neg (not_or.mpr ⟨hcount, Nat.not_le.mpr hout⟩))

/-! ### Where a bit lands -/

/-- Fewer than `m` offsets from one start do not meet modulo `m`. -/
theorem offset_unique_of_mod {a j k m : Nat} (hj : j < m) (hk : k < m) (h : (a + j) % m = (a + k) % m) : j = k :=
  (Nat.ModEq.add_left_cancel' a h).eq_of_lt_of_lt hj hk

/-- On a grid as large as a sprite two bits of one sprite never land on one pixel, wrapped or not (R167). -/
theorem place_unique {c : Config} (hcols : 8 ≤ c.cols) (hrows : 15 ≤ c.rows) {vx vy col col' row row' : Nat}
    {p : Pixel} (hcol : col < 8) (hcol' : col' < 8) (hrow : row < 15) (hrow' : row' < 15)
    (h : place c (vx + col) (vy + row) = some p) (h' : place c (vx + col') (vy + row') = some p) :
    col = col' ∧ row = row' := by
  cases hoob : c.drawOob with
  | wrap =>
    have hsame := h.trans h'.symm
    simp only [place, hoob, Option.some.injEq, Pixel.mk.injEq] at hsame
    obtain ⟨hx, hy⟩ := hsame
    exact ⟨offset_unique_of_mod (by omega) (by omega) hx, offset_unique_of_mod (by omega) (by omega) hy⟩
  | drop =>
    simp only [place, hoob, Option.ite_none_right_eq_some, Option.some.injEq] at h h'
    obtain ⟨-, rfl⟩ := h
    obtain ⟨-, hp⟩ := h'
    simp only [Pixel.mk.injEq] at hp
    omega

/-- Settles O41: the two modes are the two cases of `place`, and the bits are kept apart by `place_unique`. -/
theorem spriteBitPlacement : Obligations.SpriteBitPlacement := by
  refine fun c => ⟨fun h px py => ?_, fun h px py => ?_, fun hcols hrows _ _ _ _ _ _ _ => place_unique hcols hrows⟩
  · simp only [place, h]
  · simp only [place, h]

/-! ### The pixels a sprite toggles -/

theorem lands_eq_some {row col : Nat} {p : Pixel} :
    lands s x y row col = some p ↔ (s.byteAt (s.i.toNat + row)).getLsbD (7 - col) = true ∧
      place s.cfg ((s.getV x).toNat + col) ((s.getV y).toNat + row) = some p :=
  Option.ite_none_right_eq_some

theorem mem_spriteAt {p : Pixel} :
    p ∈ s.spriteAt x y n ↔ ∃ row < n.toNat, ∃ col < 8, lands s x y row col = some p := by
  simp [spriteAt_eq, List.mem_flatMap, List.mem_filterMap]

theorem pixel_drawSprite (hs : DisplayCanonical s) (x y n : Nibble) (p : Pixel) :
    (completed (.drawSprite x y n) s).pixel p = (s.pixel p ^^ decide (landings s x y n p % 2 = 1)) := by
  obtain ⟨-, hordered, -⟩ := hs
  rw [← count_spriteAt]
  exact (congrArg (Raster.lit · p) (plotAll_fst ..)).trans (lit_foldl_toggle (s.spriteAt x y n) p hordered)

theorem pixel_drawSprite_ne_iff (hs : DisplayCanonical s) (x y n : Nibble) (p : Pixel) :
    (completed (.drawSprite x y n) s).pixel p ≠ s.pixel p ↔ landings s x y n p % 2 = 1 := by
  rw [pixel_drawSprite hs]
  by_cases hodd : landings s x y n p % 2 = 1 <;> simp [hodd]

section LargeGrid

variable (hcols : 8 ≤ s.cfg.cols) (hrows : 15 ≤ s.cfg.rows)
include hcols hrows

theorem lands_unique {row row' col col' : Nat} {p : Pixel} (hrow : row < n.toNat) (hrow' : row' < n.toNat)
    (hcol : col < 8) (hcol' : col' < 8) (h : lands s x y row col = some p) (h' : lands s x y row' col' = some p) :
    col = col' ∧ row = row' := by
  have hn := n.isLt
  exact place_unique hcols hrows hcol hcol' (by omega) (by omega) (lands_eq_some.mp h).2 (lands_eq_some.mp h').2

/-- On a grid as large as a sprite every pixel is toggled once at most. -/
theorem spriteAt_nodup (x y n : Nibble) : (s.spriteAt x y n).Nodup := by
  rw [spriteAt_eq, List.nodup_flatMap]
  constructor
  · intro row hrow
    refine List.pairwise_filterMap.mpr (List.nodup_range.imp_of_mem ?_)
    rintro col col' hcol hcol' hne p hp _ hp' rfl
    simp only [List.mem_range] at hrow hcol hcol'
    exact hne (lands_unique hcols hrows hrow hrow hcol hcol' hp hp').1
  · refine List.nodup_range.imp_of_mem ?_
    rintro row row' hrow hrow' hne p hp hp'
    obtain ⟨col, hcol, hp⟩ := List.mem_filterMap.mp hp
    obtain ⟨col', hcol', hp'⟩ := List.mem_filterMap.mp hp'
    simp only [List.mem_range] at hrow hrow' hcol hcol'
    exact hne (lands_unique hcols hrows hrow hrow' hcol hcol' hp hp').2

theorem landings_le_one (x y n : Nibble) (p : Pixel) : landings s x y n p ≤ 1 := by
  rw [← count_spriteAt]
  exact List.nodup_iff_count_le_one.mp (spriteAt_nodup hcols hrows x y n) p

theorem landings_odd_iff_mem (p : Pixel) : landings s x y n p % 2 = 1 ↔ p ∈ s.spriteAt x y n := by
  have hle := landings_le_one hcols hrows x y n p
  rw [← List.count_pos_iff, count_spriteAt]
  omega

end LargeGrid

/-- Settles O40: toggling flips a pixel once for each bit on it, and a large grid takes one bit at most. -/
theorem drawSpriteFlipsItsPixels : Obligations.DrawSpriteFlipsItsPixels := by
  intro x y n s t hs hin h
  obtain rfl := eq_completed_of_drawSprite hin h
  refine ⟨pixel_drawSprite_ne_iff hs x y n, fun hcols hrows p => ?_⟩
  rw [pixel_drawSprite_ne_iff hs x y n, landings_odd_iff_mem hcols hrows, mem_spriteAt]
  simp only [lands_eq_some]

/-! ### VF in mode `last` -/

theorem vf_drawSprite (x y n : Nibble) (s : State) :
    (completed (.drawSprite x y n) s).getV 15 = (s.drawn x y n).2 :=
  State.getV_setV_same _ 15 _

theorem vf_last_nil (hmode : s.cfg.drawVf = .last) (hnone : s.spriteAt x y n = []) :
    (completed (.drawSprite x y n) s).getV 15 = s.getV 15 := by
  rw [vf_drawSprite, State.drawn, hmode, hnone]
  rfl

/-- The last toggled pixel decides (R168). -/
theorem vf_last_append {ps : List Pixel} {p : Pixel} (hmode : s.cfg.drawVf = .last)
    (hlast : s.spriteAt x y n = ps ++ [p]) :
    (completed (.drawSprite x y n) s).getV 15 = flagByte (!(completed (.drawSprite x y n) s).pixel p) := by
  have hpixel : (completed (.drawSprite x y n) s).pixel p = ((s.spriteAt x y n).foldl Raster.toggle s.display).lit p :=
    congrArg (Raster.lit · p) (plotAll_fst ..)
  rw [vf_drawSprite, State.drawn, hmode, hpixel, hlast, (plotAll_last s.display (s.getV 15) ps p).2]

/-- Indexes that contribute nothing at the end of a range can be left out. -/
theorem flatMap_range_of_tail_nil {α : Type} {f : Nat → List α} {k m : Nat} (hkm : k ≤ m)
    (htail : ∀ j < m, k ≤ j → f j = []) : (List.range m).flatMap f = (List.range k).flatMap f := by
  induction m, hkm using Nat.le_induction with
  | base => rfl
  | succ m hkm ih =>
    rw [List.range_succ, List.flatMap_append, ih fun j hj => htail j (by omega), List.flatMap_singleton,
      htail m (by omega) hkm, List.append_nil]

/-- The index that contributes last contributes the end. -/
theorem flatMap_range_eq_append {α : Type} {f : Nat → List α} {k m : Nat} (hkm : k < m)
    (hlater : ∀ j < m, k < j → f j = []) : (List.range m).flatMap f = (List.range k).flatMap f ++ f k := by
  rw [flatMap_range_of_tail_nil hkm hlater, List.range_succ, List.flatMap_append, List.flatMap_singleton]

/-- The bit that lands last stands last in the sprite's list. -/
theorem spriteAt_eq_append {row col : Nat} {p : Pixel} (hrow : row < n.toNat) (hcol : col < 8)
    (hp : lands s x y row col = some p)
    (hlater : ∀ row' < n.toNat, ∀ col' < 8, bitBefore row col row' col' → lands s x y row' col' = none) :
    ∃ ps, s.spriteAt x y n = ps ++ [p] := by
  rw [spriteAt_eq, flatMap_range_eq_append hrow, List.filterMap_eq_flatMap_toList, flatMap_range_eq_append hcol, hp]
  · exact ⟨_, (List.append_assoc ..).symm⟩
  · intro col' hcol' hlt
    rw [hlater row hrow col' hcol' (.inr ⟨rfl, hlt⟩)]
    rfl
  · intro row' hrow' hlt
    refine List.filterMap_eq_nil_iff.mpr fun col' hcol' => ?_
    exact hlater row' hrow' col' (List.mem_range.mp hcol') (.inl hlt)

/-! ### VF in mode `or` -/

/-- Toggling `ps` one after another turns some pixel off at some time: one that is toggled twice, or was lit and is
toggled. -/
def TurnsOff (d : Raster) (ps : List Pixel) : Prop := ∃ p, 2 ≤ ps.count p + (d.lit p).toNat

/-- A toggle turns its pixel off at once, or is counted as the pixel's new value. -/
theorem turnsOff_cons {d : Raster} (h : d.Pairwise Pixel.before) (p : Pixel) (ps : List Pixel) :
    TurnsOff d (p :: ps) ↔ d.lit p = true ∨ TurnsOff (d.toggle p) ps := by
  by_cases hlit : d.lit p = true
  · have hoff : TurnsOff d (p :: ps) := ⟨p, by simp [hlit]⟩
    simp [hlit, hoff]
  · have hmet (q : Pixel) : (p :: ps).count q + (d.lit q).toNat = ps.count q + ((d.toggle p).lit q).toNat := by
      rw [Raster.lit_toggle p q h]
      by_cases hq : q = p
      · simp [hq, hlit]
      · simp [hq, Ne.symm hq]
    simp only [TurnsOff, hmet, hlit, false_or, Bool.false_eq_true]

/-- One toggle in mode `or`: VF becomes 1 when the pixel was lit, else it stays (R168). -/
theorem plot_or {d : Raster} (h : d.Pairwise Pixel.before) (vf : Byte) (p : Pixel) :
    plot .or (d, vf) p = (d.toggle p, if d.lit p = true then 1 else vf) := by
  simp only [plot, Raster.lit_toggle p p h, if_true, Bool.not_not, drawFlag]
  cases d.lit p <;> rfl

/-- VF after a run of toggles in mode `or` (R168). -/
theorem foldl_plot_or {d : Raster} (h : d.Pairwise Pixel.before) (vf : Byte) (ps : List Pixel) :
    (TurnsOff d ps → (ps.foldl (plot .or) (d, vf)).2 = 1) ∧
      (¬ TurnsOff d ps → (ps.foldl (plot .or) (d, vf)).2 = vf) := by
  induction ps generalizing d vf with
  | nil =>
    refine ⟨fun ⟨p, hp⟩ => ?_, fun _ => rfl⟩
    have hle := (d.lit p).toNat_le
    rw [List.count_nil] at hp
    omega
  | cons p ps ih =>
    obtain ⟨hoff, hon⟩ := ih (Raster.toggle_ordered p h) (if d.lit p = true then 1 else vf)
    rw [turnsOff_cons h, List.foldl_cons, plot_or h]
    by_cases hlater : TurnsOff (d.toggle p) ps
    · exact ⟨fun _ => hoff hlater, fun h => absurd (.inr hlater) h⟩
    · rw [or_iff_left hlater, hon hlater]
      exact ⟨fun hlit => if_pos hlit, fun hclear => if_neg hclear⟩

theorem vf_or (hs : DisplayCanonical s) (hmode : s.cfg.drawVf = .or) (x y n : Nibble) :
    (TurnsOff s.display (s.spriteAt x y n) → (completed (.drawSprite x y n) s).getV 15 = 1) ∧
      (¬ TurnsOff s.display (s.spriteAt x y n) → (completed (.drawSprite x y n) s).getV 15 = 0) := by
  obtain ⟨-, hordered, -⟩ := hs
  rw [vf_drawSprite, State.drawn, hmode]
  exact foldl_plot_or hordered 0 _

theorem turnsOff_spriteAt_iff :
    TurnsOff s.display (s.spriteAt x y n) ↔ ∃ p, 2 ≤ landings s x y n p + (s.pixel p).toNat := by
  simp only [TurnsOff, count_spriteAt]
  rfl

/-- A pixel that was lit before and is clear after was turned off. -/
theorem turnsOff_of_erased (hs : DisplayCanonical s) {p : Pixel} (hlit : s.pixel p = true)
    (hclear : (completed (.drawSprite x y n) s).pixel p = false) : TurnsOff s.display (s.spriteAt x y n) := by
  have hodd : landings s x y n p % 2 = 1 := (pixel_drawSprite_ne_iff hs x y n p).mp (by simp [hlit, hclear])
  refine turnsOff_spriteAt_iff.mpr ⟨p, ?_⟩
  rw [hlit, Bool.toNat_true]
  omega

/-- On a grid as large as a sprite a pixel that is turned off stays off. -/
theorem erased_of_turnsOff (hcols : 8 ≤ s.cfg.cols) (hrows : 15 ≤ s.cfg.rows) (hs : DisplayCanonical s)
    (h : TurnsOff s.display (s.spriteAt x y n)) :
    ∃ p, s.pixel p = true ∧ (completed (.drawSprite x y n) s).pixel p = false := by
  obtain ⟨p, hp⟩ := turnsOff_spriteAt_iff.mp h
  have hbits := landings_le_one hcols hrows x y n p
  have hold := (s.pixel p).toNat_le
  have hlit : s.pixel p = true := Bool.toNat_eq_one.mp (by omega)
  have hflip := (pixel_drawSprite_ne_iff hs x y n p).mpr (by omega)
  exact ⟨p, hlit, by simpa [hlit] using hflip⟩

/-- Settles O42: in mode `last` the last toggled pixel decides, in mode `or` whether some pixel is turned off. -/
theorem drawSpriteFlagModes : Obligations.DrawSpriteFlagModes := by
  intro x y n s t hin h
  obtain rfl := eq_completed_of_drawSprite hin h
  refine ⟨fun hmode => ⟨fun hnone => ?_, fun row hrow col hcol p hp hlater => ?_⟩, fun hmode hs => ?_⟩
  · refine vf_last_nil hmode (List.eq_nil_iff_forall_not_mem.mpr fun p hp => ?_)
    obtain ⟨row, hrow, col, hcol, hp⟩ := mem_spriteAt.mp hp
    simp [hnone row hrow col hcol] at hp
  · obtain ⟨ps, hps⟩ := spriteAt_eq_append hrow hcol hp hlater
    rw [vf_last_append hmode hps]
    cases (completed (.drawSprite x y n) s).pixel p <;> rfl
  · obtain ⟨hoff, hon⟩ := vf_or hs hmode x y n
    refine ⟨fun hmet => hoff (turnsOff_spriteAt_iff.mpr hmet), fun hfew => hon fun h => ?_, fun hcols hrows =>
      ⟨fun ⟨p, hlit, hclear⟩ => hoff (turnsOff_of_erased hs hlit hclear), fun hkept => hon fun h => ?_⟩⟩
    · obtain ⟨p, hp⟩ := turnsOff_spriteAt_iff.mp h
      exact absurd (hfew p) (Nat.not_lt.mpr hp)
    · obtain ⟨p, hlit, hclear⟩ := erased_of_turnsOff hcols hrows hs h
      simp [hkept p hlit] at hclear

/-! ### The same sprite twice -/

/-- Two canonical buffers that light the same pixels are one list. -/
theorem Raster.eq_of_lit_eq {c : Config} {d d' : Raster} (h : Raster.wf c d) (h' : Raster.wf c d')
    (hlit : ∀ p, d.lit p = d'.lit p) : d = d' := by
  have : Std.Asymm Pixel.before := ⟨fun p q hpq hqp => before_irrefl p (before_trans hpq hqp)⟩
  refine h.1.eq_of_mem_iff h'.1 fun {p} => ?_
  simpa [lit_eq] using hlit p

/-- The pixels a sprite toggles are decided by its bytes, its place and the parameters (R169). -/
theorem spriteAt_congr {u : State} (hcfg : u.cfg = s.cfg) (hi : u.i = s.i) (hx : u.getV x = s.getV x)
    (hy : u.getV y = s.getV y) (hbytes : ∀ a, u.byteAt a = s.byteAt a) (n : Nibble) :
    u.spriteAt x y n = s.spriteAt x y n := by
  simp only [spriteAt_eq, lands, hcfg, hi, hx, hy, hbytes]

/-- In both modes a sprite with a placed bit that leaves the whole display clear leaves VF = 1: each of its pixels was
turned off (R168, R170). -/
theorem vf_of_clear_after (hcols : 8 ≤ s.cfg.cols) (hrows : 15 ≤ s.cfg.rows) (hs : DisplayCanonical s)
    (hne : s.spriteAt x y n ≠ []) (hclear : ∀ p, (completed (.drawSprite x y n) s).pixel p = false) :
    (completed (.drawSprite x y n) s).getV 15 = 1 := by
  cases hmode : s.cfg.drawVf with
  | last =>
    rw [vf_last_append hmode (List.dropLast_append_getLast hne).symm, hclear]
    rfl
  | or =>
    obtain ⟨p, hp⟩ := List.exists_mem_of_ne_nil _ hne
    have hflip := (pixel_drawSprite_ne_iff hs x y n p).mpr ((landings_odd_iff_mem hcols hrows p).mpr hp)
    have hlit : s.pixel p = true := by simpa [hclear p] using hflip
    exact (vf_or hs hmode x y n).1 (turnsOff_of_erased hs hlit (hclear p))

/-- Settles O43: both draws toggle the same pixels, so each pixel is flipped an even number of times. -/
theorem drawSpriteTwiceRestores : Obligations.DrawSpriteTwiceRestores := by
  intro x y n s t u w hs hin h hdisplay hcfg hi hx hy hbytes hw
  obtain rfl := eq_completed_of_drawSprite hin h
  obtain rfl := eq_completed_of_drawSprite (hi ▸ hin) hw
  have hu : DisplayCanonical u := by
    unfold DisplayCanonical
    rw [hdisplay, hcfg]
    exact completed_displayCanonical (.drawSprite x y n) hs
  have hsprite : u.spriteAt x y n = s.spriteAt x y n := spriteAt_congr hcfg hi hx hy hbytes n
  have hbits (p : Pixel) : landings u x y n p = landings s x y n p := by
    rw [← count_spriteAt, hsprite, count_spriteAt]
  have hbetween (p : Pixel) : u.pixel p = (completed (.drawSprite x y n) s).pixel p :=
    congrArg (Raster.lit · p) hdisplay
  have hrestored (p : Pixel) : (completed (.drawSprite x y n) u).pixel p = s.pixel p := by
    rw [pixel_drawSprite hu, hbetween, pixel_drawSprite hs, hbits, Bool.xor_assoc, Bool.xor_self, Bool.xor_false]
  refine ⟨hrestored, ?_, fun hclear hcols hrows hne => ?_⟩
  · refine Raster.eq_of_lit_eq ?_ hs.2 hrestored
    exact hcfg ▸ (completed_displayCanonical (.drawSprite x y n) hu).2
  · exact vf_of_clear_after (hcfg ▸ hcols) (hcfg ▸ hrows) hu (hsprite ▸ hne) fun p => (hrestored p).trans (hclear p)

end Sys2Proof.Machine
end

section
/-! PROOF. The keyboard and timer instructions (R180 to R185): the key skips (O44), the moves between a register and a
timer (O45), wait-key and the events that may follow it (O46). -/

namespace Sys2Proof.Machine

variable {s : State} {k : Nibble}

/-! ### The key skips -/

/-- A byte that is a key number is that key when it is narrowed (R66). -/
theorem setWidth_eq_of_toNat_eq {b : Byte} (h : b.toNat = k.toNat) : b.setWidth 4 = k := by
  bv_omega

/-- Settles O44: the register holds a key number, which decides the skip, or it does not and the trap is taken. -/
theorem keySkipInstructions : Obligations.KeySkipInstructions := by
  refine fun x s => ⟨decode_of_eq_encode rfl (wordX_eq 0xE x 0x9E), decode_of_eq_encode rfl (wordX_eq 0xE x 0xA1),
    fun k hk => ?_, fun hout => ⟨exec_faulted (if_pos hout), exec_faulted (if_pos hout)⟩⟩
  have hin : ¬ (s.getV x).toNat > 15 := by omega
  have hkey : (s.getV x).setWidth 4 = k := setWidth_eq_of_toNat_eq hk
  constructor
  · exact writesPc_skipped (by rw [hkey]) (if_neg hin) rfl rfl
  · rw [← ite_not]
    exact writesPc_skipped (by simp [hkey]) (if_neg hin) rfl rfl

/-! ### The timer moves -/

/-- Settles O45: none of the three raises, and each writes one register or timer. -/
theorem timerInstructions : Obligations.TimerInstructions := fun x s =>
  ⟨decode_of_eq_encode rfl (wordX_eq 0xF x 0x07), writesReg_completed rfl rfl rfl,
    decode_of_eq_encode rfl (wordX_eq 0xF x 0x15),
    ⟨completed (.setDelayTimer x) s, exec_completed rfl, rfl, rfl, completed_frame (.setDelayTimer x) s⟩,
    decode_of_eq_encode rfl (wordX_eq 0xF x 0x18),
    ⟨completed (.setSoundTimer x) s, exec_completed rfl, rfl, rfl, completed_frame (.setSoundTimer x) s⟩⟩

/-! ### Events while no exception is in the latch -/

/-- A cycle does nothing while halted (R201). -/
theorem cycle_of_halted (hh : s.halt = true) : cycle s = .next s := by
  simp [cycle, hh]

/-- A tick counts both timers down and tells whether the sound is on, by the new value of ST (R205, R206). -/
theorem tick_of_not_faulted (hf : s.fault = none) :
    tick s = ((s.setDt (countDown s.dt)).setSt (countDown s.st)).emit
      (if (countDown s.st).toNat > 0 then .soundOn else .soundOff) := by
  have hon : (countDown s.st).toNat > 0 ↔ ¬ countDown s.st = 0 := by bv_omega
  simp [tick, hf, hon]

/-- A key press ends the wait with its number (R214). -/
theorem keyPress_of_waiting (hf : s.fault = none) (hh : s.halt = true) :
    keyPress k s = ((s.setKey k true).setV s.waitX (keyByte k)).setHalt false := by
  simp [keyPress, hf, hh]

/-- A key press with no wait pending only sets its key (R214). -/
theorem keyPress_of_not_waiting (hf : s.fault = none) (hh : s.halt = false) : keyPress k s = s.setKey k true := by
  simp [keyPress, hf, hh]

/-- A key release only clears its key (R215). -/
theorem keyRelease_of_not_faulted (hf : s.fault = none) : keyRelease k s = s.setKey k false := by
  simp [keyRelease, hf]

@[simp] theorem isPressed_setKey_same (k : Nibble) (down : Bool) (s : State) :
    (s.setKey k down).isPressed k = down := by
  rw [State.isPressed_setKey, if_pos rfl]

/-! ### wait-key -/

/-- Settles O46: wait-key raises nothing and leaves `halt` set, so each event that follows is the event of a waiting
core; the first press clears `halt`, so the second is the press of a core that does not wait. -/
theorem waitKeyInstruction : Obligations.WaitKeyInstruction := by
  refine fun x s => ⟨decode_of_eq_encode rfl (wordX_eq 0xF x 0x0A), completed (.waitKey x) s, exec_completed rfl, rfl,
    rfl, rfl, completed_frame (.waitKey x) s, fun hf => ?_⟩
  have hwait : (completed (.waitKey x) s).fault = none := hf
  refine ⟨fun rnd => cycle_of_halted rfl, fun k => ?_, ?_, fun k => ?_, ⟨_, rfl, rfl⟩⟩
  · exact ⟨_, congrArg Host.Outcome.next (keyRelease_of_not_faulted hwait), rfl, rfl, rfl, rfl⟩
  · exact ⟨_, congrArg Host.Outcome.next (tick_of_not_faulted hwait), rfl, rfl, countDown_toNat _, countDown_toNat _,
      rfl⟩
  · refine ⟨_, congrArg Host.Outcome.next (keyPress_of_waiting hwait rfl), rfl, isPressed_setKey_same k true _, rfl,
      fun r => State.getV_setV _ x r (keyByte k), fun k' => ?_⟩
    exact ⟨_, congrArg Host.Outcome.next (keyPress_of_not_waiting hwait rfl), rfl, rfl,
      isPressed_setKey_same k' true _⟩

end Sys2Proof.Machine
end

section
/-! PROOF. The machine's cycle (R200 to R203): which event a step takes (O7), what a cycle step runs (O8, O9), what it
does while halted (O10), where it leaves PC (O17), and the waiting events in order (O60). -/

namespace Sys2Proof.Machine

variable {s t : State} {e : Event} {rest : List Event}

/-! ### The event a step takes -/

theorem step_of_waiting (h : s.io.events = e :: rest) : step s = deliver e (s.setIo { s.io with events := rest }) := by
  rw [step_eq, nextEvent_cons h]

/-- Settles O7: `nextEvent` takes the oldest event off the list, or counts one more free byte. -/
theorem stepTakesOldestEvent : Obligations.StepTakesOldestEvent := by
  refine ⟨fun s e rest h => step_of_waiting h, fun s h => ?_⟩
  rw [step_eq, nextEvent_nil h]
  rfl

/-! ### The instruction a cycle step runs -/

/-- A cycle event of a core that is neither faulted nor halted runs the instruction at PC (R200). -/
theorem step_exec {rnd : Byte} {w : Word} {i : Instr} (he : (nextEvent s).1 = .cycle rnd) (hf : s.fault = none)
    (hh : s.halt = false) (hw : fetch s = .ok w) (hd : decode w = .ok i) : step s = exec i (cycleInput s rnd) := by
  rw [step_of_cycle he]
  exact cycle_exec (by simp [hf]) (by simp [hh]) (by simp [hw]) hd

/-- Settles O8: PC up to 4094 has its two bytes in memory, so the fetch succeeds. -/
theorem stepRunsDecodedInstruction : Obligations.StepRunsDecodedInstruction := by
  intro s rnd i he hf hh hpc hd
  have hin : s.pc.toNat + 1 < memSize := by simp only [memSize]; omega
  exact step_exec he hf hh (fetch_ok hin) hd

/-- `readyToFetch` leaves PC at an address with two bytes of memory: its own, or 0x200. -/
theorem readyToFetch_pc_inside (s : State) : (readyToFetch s).pc.toNat + 1 < memSize := by
  simp only [readyToFetch]
  split
  · assumption
  · decide

/-- Two bytes stored at PC are the word that is fetched (R52). -/
theorem fetch_stored (hmem : MemoryCanonical s) (hin : s.pc.toNat + 1 < memSize) (hi lo : Byte) :
    fetch (s.writeBytes s.pc.toNat [hi, lo]) = .ok (wordOfBytes hi lo) := by
  have hread (a : Nat) := byteAt_stored s.pc.toNat [hi, lo] a hmem hin
  have hhigh : (s.writeBytes s.pc.toNat [hi, lo]).byteAt s.pc.toNat = hi := by simp [hread]
  have hlow : (s.writeBytes s.pc.toNat [hi, lo]).byteAt (s.pc.toNat + 1) = lo := by simp [hread]
  have hpc : (s.writeBytes s.pc.toNat [hi, lo]).pc = s.pc := State.writeBytes_pc ..
  rw [fetch_ok (by rw [hpc]; exact hin), hpc, hhigh, hlow]

/-- The word that is placed at PC is the word that is fetched. -/
theorem fetch_placeWord (hmem : MemoryCanonical s) (hin : s.pc.toNat + 1 < memSize) (w : Word) :
    fetch (placeWord s 16 w.toNat) = .ok w := by
  have hw : BitVec.ofNat 16 (w.toNat % 2 ^ 16) = w := by
    rw [Nat.mod_eq_of_lt w.isLt, BitVec.ofNat_toNat, BitVec.setWidth_eq]
  rw [placeWord, hw, fetch_stored hmem hin, wordOfBytes_bytes]

/-- Settles O9: the state with the word placed has no event waiting, nothing pending, and that word at PC. -/
theorem placedWordRunsNext : Obligations.PlacedWordRunsNext := by
  intro s w i hmem hd
  have hready : MemoryCanonical (readyToFetch s) := hmem.of_eq rfl rfl
  have hfetch : fetch (s.withFetchWord 16 w.toNat) = .ok w :=
    fetch_placeWord hready (readyToFetch_pc_inside s) w
  have hevent : (nextEvent (s.withFetchWord 16 w.toNat)).1 = .cycle (Config.freeRnd s.io.draws) := rfl
  exact ⟨_, step_exec hevent rfl rfl hfetch hd⟩

/-! ### While halted -/

/-- A cycle event finds the state as it was but for the record of inputs. -/
theorem cycleInput_state (s : State) (rnd : Byte) : ∃ io : Io, cycleInput s rnd = s.setIo io ∧ io.out = s.io.out := by
  obtain ⟨io, hstate, hout, -⟩ := nextEvent_state s
  exact ⟨{ io with rnd := rnd }, by rw [cycleInput, hstate]; rfl, hout⟩

/-- Settles O10: the cycle of a halted core answers the state it finds. -/
theorem haltedCycleDoesNothing : Obligations.HaltedCycleDoesNothing := by
  intro s rnd he _ hh
  obtain ⟨io, hstate, hout⟩ := cycleInput_state s rnd
  refine ⟨io, ?_, hout⟩
  rw [step_of_cycle he, cycle_of_halted (by simp [hh]), hstate]
  rfl

/-! ### Where an instruction leaves PC -/

/-- An instruction of the auto class that completes moves PC on by 2 (R203). -/
theorem completed_pc_of_autoAdvances {i : Instr} (h : autoAdvances i = true) : (completed i s).pc = s.pc + 2 := by
  cases i with
  | ret | jump | call | skipEqImm | skipNeqImm | skipEqReg | skipNeqReg | jumpPlusV0 | skipIfKeyPressed
  | skipIfKeyNotPressed => cases h
  | regLoad x =>
    obtain ⟨v, hv⟩ := completed_regLoad x s
    rw [hv]
    rfl
  | _ => rfl

/-- The names of the conditional skips (R203). -/
def skipNames : List String :=
  ["skip-eq-imm", "skip-neq-imm", "skip-eq-reg", "skip-neq-reg", "skip-if-key-pressed", "skip-if-key-not-pressed"]

/-- The six operations so named are skips of some condition. -/
theorem completed_of_skipName {i : Instr} (h : i.mnemonic ∈ skipNames) : ∃ cond, completed i s = skipped cond s := by
  cases i with
  | skipEqImm | skipNeqImm | skipEqReg | skipNeqReg | skipIfKeyPressed | skipIfKeyNotPressed => exact ⟨_, rfl⟩
  | _ => simp [Instr.mnemonic, skipNames] at h

theorem skipped_pc (cond : Bool) (s : State) :
    (skipped cond s).pc = s.pc + 2 ∨ (skipped cond s).pc = s.pc + 4 := by
  cases cond
  · exact .inl rfl
  · exact .inr rfl

/-- Settles O17: with an empty latch after it the instruction completed, as one that advances or as a skip. -/
theorem programCounterClasses : Obligations.ProgramCounterClasses := by
  intro i s t _ h ht
  obtain ⟨-, rfl⟩ | ⟨e, -, rfl⟩ := exec_cases h
  · refine ⟨completed_pc_of_autoAdvances, fun hname => ?_⟩
    obtain ⟨cond, hskip⟩ := completed_of_skipName (s := s) hname
    rw [hskip]
    exact skipped_pc cond s
  · simp at ht

/-! ### The waiting events in order -/

/-- A state with another list of waiting events. -/
def State.withEvents (l : List Event) (s : State) : State := s.setIo { s.io with events := l }

/-- No handler looks at the waiting events: neither to raise, nor for the state it completes in. -/
theorem trap_withEvents (i : Instr) (l : List Event) (s : State) : trap i (s.withEvents l) = trap i s := by
  cases i <;> rfl

theorem completed_withEvents (i : Instr) (l : List Event) (s : State) :
    completed i (s.withEvents l) = (completed i s).withEvents l := by
  cases i <;> rfl

theorem exec_withEvents (i : Instr) (l : List Event) (s : State) :
    exec i (s.withEvents l) = mapNext (State.withEvents l) (exec i s) := by
  rw [exec_eq, exec_eq, trap_withEvents, completed_withEvents]
  cases trap i s <;> rfl

/-- A cycle does not look at the waiting events. -/
theorem cycle_withEvents (l : List Event) (s : State) :
    cycle (s.withEvents l) = mapNext (State.withEvents l) (cycle s) := by
  have hfetch : fetch (s.withEvents l) = fetch s := rfl
  have hfault : (s.withEvents l).fault = s.fault := rfl
  have hhalt : (s.withEvents l).halt = s.halt := rfl
  simp only [cycle, hfetch, hfault, hhalt]
  split
  · rfl
  · split
    · rfl
    · cases fetch s with
      | error e => rfl
      | ok w =>
        cases hd : decode w with
        | error r => simp only [hd]; rfl
        | ok i => simp only [hd]; exact exec_withEvents i l s

theorem tick_withEvents (l : List Event) (s : State) : tick (s.withEvents l) = (tick s).withEvents l := by
  rw [tick, tick, apply_ite (State.withEvents l)]
  rfl

theorem keyPress_withEvents (k : Nibble) (l : List Event) (s : State) :
    keyPress k (s.withEvents l) = (keyPress k s).withEvents l := by
  rw [keyPress, keyPress, apply_ite (State.withEvents l), apply_ite (State.withEvents l)]
  rfl

theorem keyRelease_withEvents (k : Nibble) (l : List Event) (s : State) :
    keyRelease k (s.withEvents l) = (keyRelease k s).withEvents l := by
  rw [keyRelease, keyRelease, apply_ite (State.withEvents l)]
  rfl

theorem load_withEvents (bytes : List Byte) (l : List Event) (s : State) :
    load bytes (s.withEvents l) = (load bytes s).withEvents l := by
  rw [load, load, apply_ite (State.withEvents l), apply_ite (State.withEvents l)]
  rfl

/-- What an event does, it does whichever events wait behind it (R208). -/
theorem deliver_withEvents (e : Event) (l : List Event) (s : State) :
    deliver e (s.withEvents l) = mapNext (State.withEvents l) (deliver e s) := by
  cases e with
  | cycle rnd => exact cycle_withEvents l (s.present rnd)
  | tick => exact congrArg Host.Outcome.next (tick_withEvents l s)
  | keyPress k => exact congrArg Host.Outcome.next (keyPress_withEvents k l s)
  | keyRelease k => exact congrArg Host.Outcome.next (keyRelease_withEvents k l s)
  | load bytes => exact congrArg Host.Outcome.next (load_withEvents bytes l s)
  | reset => rfl

/-- A cycle has a next state: an exception is one too (R241). -/
theorem cycle_next (s : State) : ∃ t, cycle s = .next t := by
  unfold cycle
  split
  · exact ⟨s, rfl⟩
  · split
    · exact ⟨s, rfl⟩
    · split
      · exact ⟨_, rfl⟩
      · split
        · exact ⟨_, rfl⟩
        · exact ⟨_, exec_eq _ s⟩

theorem deliver_next (e : Event) (s : State) : ∃ t, deliver e s = .next t := by
  cases e with
  | cycle rnd => exact cycle_next (s.present rnd)
  | tick | keyPress | keyRelease | load | reset => exact ⟨_, rfl⟩

theorem run_succ {n : Nat} (h : step s = .next t) : core.run (n + 1) s = core.run n t := by
  have hcore : core.step s = .next t := h
  simp only [Host.Core.run, hcore]

theorem deliverAll_cons {es : List Event} (h : deliver e s = .next t) : deliverAll (e :: es) s = deliverAll es t := by
  simp only [deliverAll, h]

/-- A run of as many steps as events wait answers what the events answer, one after another. -/
theorem run_withEvents (es : List Event) (s : State) :
    ∃ t, core.run es.length (s.withEvents es) = .next t ∧ deliverAll es (s.withEvents []) = .next t := by
  induction es generalizing s with
  | nil => exact ⟨_, rfl, rfl⟩
  | cons e es ih =>
    obtain ⟨u, hu⟩ := deliver_next e s
    have hany (l : List Event) : deliver e (s.withEvents l) = .next (u.withEvents l) := by
      rw [deliver_withEvents, hu]
      rfl
    obtain ⟨t, hrun, hall⟩ := ih u
    have hstep : step (s.withEvents (e :: es)) = .next (u.withEvents es) := (step_of_waiting rfl).trans (hany es)
    exact ⟨t, (run_succ hstep).trans hrun, (deliverAll_cons (hany [])).trans hall⟩

/-- Settles O60: a state is itself with its own events waiting. -/
theorem waitingEventsRunInOrder : Obligations.WaitingEventsRunInOrder := by
  intro es s hes
  subst hes
  exact run_withEvents s.io.events s

end Sys2Proof.Machine
end

section
/-! PROOF. The events other than a cycle (R205 to R216): what a faulted core ignores (O11), ticks (O18, O19), keys (O20)
and `load` (O21). -/

namespace Sys2Proof.Machine

variable {s : State} {e : Event} {rest : List Event}

/-! ### While faulted -/

theorem cycle_of_faulted (hf : s.fault ≠ none) : cycle s = .next s := if_pos (Option.isSome_iff_ne_none.mpr hf)

/-- While faulted every event but a reset does nothing; a cycle event still presents its byte (R202, R241). -/
theorem deliver_of_faulted (hf : s.fault ≠ none) (hreset : e ≠ .reset) :
    deliver e s = .next s ∨ ∃ rnd, e = .cycle rnd ∧ deliver e s = .next (s.present rnd) := by
  have hlatch : s.fault.isSome = true := Option.isSome_iff_ne_none.mpr hf
  cases e with
  | cycle rnd => exact .inr ⟨rnd, rfl, cycle_of_faulted hf⟩
  | reset => exact absurd rfl hreset
  | tick | keyPress | keyRelease | load => exact .inl (congrArg Host.Outcome.next (if_pos hlatch))

/-- Settles O11: what the event does to the state that took it changes the record of inputs only. -/
theorem faultedCoreIgnoresEvents : Obligations.FaultedCoreIgnoresEvents := by
  intro s hf hreset
  obtain ⟨io, hstate, hout, -⟩ := nextEvent_state s
  have hlatch : (nextEvent s).2.fault ≠ none := by rwa [nextEvent_fault]
  rw [step_eq]
  obtain hstays | ⟨rnd, -, hpresents⟩ := deliver_of_faulted hlatch hreset
  · exact ⟨io, by rw [hstays, hstate]; rfl, hout⟩
  · exact ⟨{ io with rnd := rnd }, by rw [hpresents, hstate]; rfl, hout⟩

/-- A step of a faulted core whose event is neither a reset nor a cycle only takes the event. -/
theorem step_of_faulted (hf : s.fault ≠ none) (he : s.io.events = e :: rest) (hreset : e ≠ .reset)
    (hcycle : ∀ rnd, e ≠ .cycle rnd) : step s = .next (s.setIo { s.io with events := rest }) := by
  have hlatch : (s.setIo { s.io with events := rest }).fault ≠ none := hf
  rw [step_of_waiting he]
  exact (deliver_of_faulted hlatch hreset).resolve_right fun ⟨rnd, hrnd, _⟩ => hcycle rnd hrnd

/-! ### Ticks -/

/-- Settles O18: the tick finds the state that took it, with the latch and the timers as they were. -/
theorem tickCountsDownAndSounds : Obligations.TickCountsDownAndSounds := by
  intro s rest he
  refine ⟨fun hf => ?_, fun hf => step_of_faulted hf he nofun nofun⟩
  exact ⟨_, (step_of_waiting he).trans (congrArg Host.Outcome.next (tick_of_not_faulted hf)), countDown_toNat _,
    countDown_toNat _, rfl, rfl⟩

/-- The notification of tick `k`, counted from 0, of ticks in a row from ST = `st` (R206). -/
def soundAfter (st k : Nat) : Output := if k + 1 < st then .soundOn else .soundOff

theorem soundAfter_succ (st k : Nat) : soundAfter st (k + 1) = soundAfter (st - 1) k := by
  have hlater : k + 1 + 1 < st ↔ k + 1 < st - 1 := by omega
  simp only [soundAfter, hlater]

/-- The first tick tells whether ST is above 0 after it. -/
theorem soundAfter_zero (b : Byte) :
    (if (countDown b).toNat > 0 then Output.soundOn else .soundOff) = soundAfter b.toNat 0 := by
  have hfirst : b.toNat - 1 > 0 ↔ 0 + 1 < b.toNat := by omega
  simp only [soundAfter, countDown_toNat, hfirst]

/-- The notifications of ticks in a row: that of the first, then those of the others from one less. -/
theorem map_soundAfter_range_succ (n st : Nat) :
    (List.range (n + 1)).map (soundAfter st) = soundAfter st 0 :: (List.range n).map (soundAfter (st - 1)) := by
  simp only [List.range_succ_eq_map, List.map_cons, List.map_map, Function.comp_def, soundAfter_succ]

/-- Settles O19: the first tick counts down by one, and the others start from there. -/
theorem ticksInARow : Obligations.TicksInARow := by
  intro n
  induction n with
  | zero => exact fun s _ => ⟨s, rfl, rfl, rfl, (List.append_nil _).symm, rfl⟩
  | succ n ih =>
    intro s hf
    have htick := tick_of_not_faulted hf
    rw [soundAfter_zero] at htick
    have hdt : (tick s).dt.toNat = s.dt.toNat - 1 := by rw [htick]; exact countDown_toNat s.dt
    have hst : (tick s).st.toNat = s.st.toNat - 1 := by rw [htick]; exact countDown_toNat s.st
    have hout : (tick s).io.out = s.io.out ++ [soundAfter s.st.toNat 0] := by rw [htick]; rfl
    obtain ⟨t, hall, htdt, htst, htout, htrest⟩ := ih (tick s) (by rw [htick]; exact hf)
    refine ⟨t, (deliverAll_cons rfl).trans hall, by omega, by omega, ?_, ?_⟩
    · calc t.io.out
        _ = (tick s).io.out ++ (List.range n).map (soundAfter (tick s).st.toNat) := htout
        _ = s.io.out ++ (List.range (n + 1)).map (soundAfter s.st.toNat) := by
          rw [hout, hst, map_soundAfter_range_succ, List.append_assoc, List.singleton_append]
    · rw [htick] at htrest
      exact htrest

/-! ### Keys -/

/-- A key press while not faulted writes its key, `halt`, and the register of a pending wait (R214). -/
theorem keyPress_rest (hf : s.fault = none) (k : Nibble) :
    keyPress k s = { s with keys := (keyPress k s).keys, halt := false, v := (keyPress k s).v } := by
  cases hh : s.halt with
  | true => rw [keyPress_of_waiting hf hh]; rfl
  | false => rw [keyPress_of_not_waiting hf hh, ← hh]; rfl

/-- The registers after a key press while not faulted (R214). -/
theorem keyPress_getV (hf : s.fault = none) (k r : Nibble) :
    (keyPress k s).getV r = if s.halt = true ∧ r = s.waitX then keyByte k else s.getV r := by
  cases hh : s.halt with
  | true => simp [keyPress_of_waiting hf hh, State.getV_setV]
  | false => simp [keyPress_of_not_waiting hf hh]

/-- Settles O20: a press or a release finds the state that took it, faulted or not. -/
theorem keyEvents : Obligations.KeyEvents := by
  intro s k rest
  have hlatch (hf : s.fault = none) : (s.setIo { s.io with events := rest }).fault = none := hf
  refine ⟨fun he => ⟨fun hf => ?_, fun hf => step_of_faulted hf he nofun nofun⟩,
    fun he => ⟨fun hf => ?_, fun hf => step_of_faulted hf he nofun nofun⟩⟩
  · have hrest := keyPress_rest (hlatch hf) k
    refine ⟨_, step_of_waiting he, fun j => ?_, congrArg State.halt hrest, keyPress_getV (hlatch hf) k, hrest⟩
    simp [keyPress_isPressed, hf]
  · refine ⟨_, step_of_waiting he, fun j => ?_, ?_⟩
    · simp [keyRelease_isPressed, hf]
    · rw [keyRelease_of_not_faulted (hlatch hf)]
      rfl

/-! ### `load` -/

/-- A byte of memory after a `load` that fits: the program from 0x200 upward, the reset contents elsewhere (R216). -/
theorem read_loadedMemory {bytes : List Byte} (c : Config) (hfits : bytes.length ≤ romMax) (a : Nat) :
    (loadedMemory c bytes).read c a
      = if ha : 0x200 ≤ a ∧ a < 0x200 + bytes.length then bytes[a - 0x200] else initialByte c a :=
  Memory.read_writeBytes bytes a Memory.wf_nil (by simp only [programOrigin, memSize, romMax] at *; omega)

/-- Byte `r` of glyph `g` stands at `5 * g + r` after reset (R59). -/
theorem initialByte_font (c : Config) {g r : Nat} (hg : g < 16) (hr : r < 5) :
    initialByte c (g * 5 + r) = c.font[g][r] := by
  have hglyph : (g * 5 + r) / 5 = g := by omega
  have hrow : (g * 5 + r) % 5 = r := by omega
  rw [initialByte, dif_pos (by omega)]
  simp only [hglyph, hrow]

theorem initialByte_above_font (c : Config) {a : Nat} (ha : 80 ≤ a) : initialByte c a = 0 := dif_neg (by omega)

theorem load_too_long {bytes : List Byte} (hf : s.fault = none) (hlong : bytes.length > romMax) :
    load bytes s = s.emit (.invalidRom bytes.length) := by
  rw [load, if_neg (by simp [hf]), if_pos hlong]

theorem load_fits {bytes : List Byte} (hf : s.fault = none) (hfits : bytes.length ≤ romMax) :
    load bytes s = s.setMem (loadedMemory s.cfg bytes) := by
  rw [load, if_neg (by simp [hf]), if_neg (Nat.not_lt.mpr hfits)]

/-- Settles O21: a program that fits is the whole of memory above the reset contents, a longer one changes nothing. -/
theorem loadReplacesMemory : Obligations.LoadReplacesMemory := by
  refine fun s bytes rest he => ⟨fun hf => step_of_faulted hf he nofun nofun, fun hf hlong => ?_, fun hf hfits => ?_⟩
  · exact (step_of_waiting he).trans (congrArg Host.Outcome.next (load_too_long hf hlong))
  have hstep := (step_of_waiting he).trans (congrArg Host.Outcome.next (load_fits hf hfits))
  have hread := read_loadedMemory s.cfg hfits
  refine ⟨_, hstep, fun k hk => ?_, fun g r hg hr => ?_, fun a ha _ hout => ?_, rfl⟩
  · refine (hread _).trans ?_
    rw [dif_pos (by omega)]
    simp
  · refine (hread _).trans ?_
    rw [dif_neg (by omega), initialByte_font s.cfg hg hr]
  · refine (hread _).trans ?_
    rw [dif_neg (by omega), initialByte_above_font s.cfg ha]

end Sys2Proof.Machine
end

section
/-! PROOF. The exceptions (R230 to R243): every step has a next state (O14), a step that raises changes the latch and
the record of outputs only (O15), what a handler can raise (O16), what a fetch outside memory raises (O12), and the
values the latch can hold (O53). -/

namespace Sys2Proof.Machine

variable {s t : State} {e : Exception}

/-- Settles O14: each event has a next state, whichever state it finds. -/
theorem stepAlwaysAnswersNext : Obligations.StepAlwaysAnswersNext := fun s =>
  deliver_next (nextEvent s).1 (nextEvent s).2

/-! ### What a handler raises -/

theorem Frame.fault_eq {k : Touched} (h : Frame k s t) : t.fault = s.fault := by
  obtain ⟨-, -, -, -, -, -, -, -, -, hfault, -⟩ := h
  exact hfault

@[simp] theorem completed_fault (i : Instr) (s : State) : (completed i s).fault = s.fault :=
  (completed_frame i s).fault_eq

/-- A handler that fills an empty latch took its trap (R239, R241). -/
theorem exec_raises {i : Instr} (hs : s.fault = none) (h : exec i s = .next t) (ht : t.fault = some e) :
    trap i s = some e ∧ t = faulted s e := by
  obtain ⟨-, rfl⟩ | ⟨x, htrap, rfl⟩ := exec_cases h
  · simp [hs] at ht
  · obtain rfl := Option.some.inj ht
    exact ⟨htrap, rfl⟩

/-- A range check raises its kind with the lowest address outside memory (R51). -/
theorem rangeTrap_some {kind : FaultKind} {base count : Nat} (h : rangeTrap kind base count = some e) :
    e = .memoryFault kind (max base memSize) := by
  obtain ⟨-, ⟨⟩⟩ := Option.ite_none_left_eq_some.mp h
  rfl

/-- I is a word, so the address a data access names is one too (R233). -/
theorem dataAddress_legal (s : State) : 4096 ≤ max s.base memSize ∧ max s.base memSize ≤ 65535 := by
  have hi : s.base < 65536 := s.i.isLt
  simp only [memSize]
  omega

/-- Everything a handler can raise: a MemoryFault of its one kind (R239), its value in the range of R233 to R235. -/
theorem trap_cases {i : Instr} (h : trap i s = some e) :
    ∃ kind value, canRaise i = some kind ∧ e = .memoryFault kind value ∧ e.legal := by
  cases i with
  | ret | call =>
    obtain ⟨-, ⟨⟩⟩ := Option.ite_none_right_eq_some.mp h
    exact ⟨_, _, rfl, rfl, rfl⟩
  | skipIfKeyPressed x | skipIfKeyNotPressed x =>
    obtain ⟨hkey, ⟨⟩⟩ := Option.ite_none_right_eq_some.mp h
    exact ⟨_, _, rfl, rfl, hkey, Nat.le_of_lt_succ (s.getV x).isLt⟩
  | drawSprite | regLoad | storeBcd | regDump =>
    obtain rfl := rangeTrap_some h
    exact ⟨_, _, rfl, rfl, dataAddress_legal s⟩
  | _ => cases h

/-- Settles O16: what the latch holds is the trap of the handler. -/
theorem handlerExceptionKinds : Obligations.HandlerExceptionKinds := by
  intro i s t e hs h ht
  obtain ⟨htrap, -⟩ := exec_raises hs h ht
  obtain ⟨kind, value, hkind, he, -⟩ := trap_cases htrap
  exact ⟨kind, value, hkind, he⟩

/-! ### What a cycle raises -/

/-- The exceptions a cycle can raise: at fetch, at decode, or in the handler (R231 to R235). -/
inductive Raises (s : State) : Exception → Prop where
  | atFetch (hout : memSize ≤ s.pc.toNat + 1) : Raises s (.memoryFault .fetch (max s.pc.toNat memSize))
  | atDecode {w : Word} (hw : fetch s = .ok w) (hd : decode w = .error (.unsupported w)) :
    Raises s (.unsupportedInstruction w)
  | inHandler {i : Instr} {e : Exception} (htrap : trap i s = some e) : Raises s e

/-- A cycle that fills an empty latch changes nothing else but the record of outputs (R241, R242). -/
theorem cycle_raises (hs : s.fault = none) (h : cycle s = .next t) (ht : t.fault = some e) :
    Raises s e ∧ t = faulted s e := by
  obtain ⟨hlatch, -⟩ | ⟨-, -, rfl⟩ | ⟨-, -, ⟨hout, rfl⟩ | ⟨w, hw, hd, rfl⟩ | ⟨w, i, -, -, hexec⟩⟩ := cycle_cases h
  · exact absurd hs hlatch
  · simp [hs] at ht
  · obtain rfl := Option.some.inj ht
    exact ⟨.atFetch hout, rfl⟩
  · obtain rfl := Option.some.inj ht
    exact ⟨.atDecode hw hd, rfl⟩
  · obtain ⟨htrap, hfaulted⟩ := exec_raises hs hexec ht
    exact ⟨.inHandler htrap, hfaulted⟩

/-! ### What a step raises -/

@[simp] theorem tick_fault (s : State) : (tick s).fault = s.fault := by unfold tick; split <;> rfl

@[simp] theorem keyPress_fault (k : Nibble) (s : State) : (keyPress k s).fault = s.fault := by
  unfold keyPress; split <;> [rfl; split <;> rfl]

@[simp] theorem keyRelease_fault (k : Nibble) (s : State) : (keyRelease k s).fault = s.fault := by
  unfold keyRelease; split <;> rfl

@[simp] theorem load_fault (bytes : List Byte) (s : State) : (load bytes s).fault = s.fault := by
  unfold load; split <;> [rfl; split <;> rfl]

@[simp] theorem resetCore_fault (s : State) : (resetCore s).fault = none := rfl

/-- Of the events only a cycle fills an empty latch (R230). -/
theorem deliver_raises {event : Event} (hs : s.fault = none) (h : deliver event s = .next t) (ht : t.fault = some e) :
    ∃ rnd, event = .cycle rnd ∧ cycle (s.present rnd) = .next t := by
  cases event with
  | cycle rnd => exact ⟨rnd, rfl, h⟩
  | tick | keyPress | keyRelease | load | reset =>
    obtain rfl := Host.Outcome.next.inj h
    simp [hs] at ht

/-- A step that fills an empty latch is a cycle that raises (R230, R242). -/
theorem step_raises (hs : s.fault = none) (h : step s = .next t) (ht : t.fault = some e) :
    ∃ rnd, (nextEvent s).1 = .cycle rnd ∧ Raises (cycleInput s rnd) e ∧ t = faulted (cycleInput s rnd) e := by
  obtain ⟨rnd, hevent, hcycle⟩ := deliver_raises ((nextEvent_fault s).trans hs) h ht
  exact ⟨rnd, hevent, cycle_raises ((cycleInput_fault s rnd).trans hs) hcycle ht⟩

/-- Settles O15: the step is a cycle that raises, and such a cycle changes the latch and the outputs only. -/
theorem exceptionsArePrecise : Obligations.ExceptionsArePrecise := by
  intro s t e h hs ht
  obtain ⟨rnd, hevent, -, hfaulted⟩ := step_raises hs h ht
  exact ⟨rnd, hevent, hfaulted⟩

/-! ### A fetch outside memory -/

/-- The lowest address outside memory that a fetch reads: 4096 at PC = 4095, PC itself beyond (R232). -/
theorem max_pc_memSize {pc : Nat} (h : 4094 < pc) : max pc memSize = if pc = 4095 then 4096 else pc := by
  simp only [memSize]
  split <;> omega

theorem cycle_fetch_fault (hf : s.fault = none) (hh : s.halt = false) (hpc : 4094 < s.pc.toNat) :
    cycle s = .next (faulted s (.memoryFault .fetch (if s.pc.toNat = 4095 then 4096 else s.pc.toNat))) := by
  have hout : memSize ≤ s.pc.toNat + 1 := by simp only [memSize]; omega
  simp [cycle, hf, hh, fetch_fault hout, max_pc_memSize hpc]

/-- Settles O12: up to 4094 both bytes are in memory; beyond, the cycle of the state that took the event raises. -/
theorem fetchOutsideMemoryRaises : Obligations.FetchOutsideMemoryRaises := by
  refine ⟨fun s hpc => ?_, fun s rnd hevent hf hh hpc => ?_⟩
  · have hin : s.pc.toNat + 1 < memSize := by simp only [memSize]; omega
    exact ⟨_, fetch_ok hin, wordOfBytes_toNat _ _⟩
  · rw [step_of_cycle hevent, cycle_fetch_fault (by simp [hf]) (by simp [hh]) (by simpa using hpc), cycleInput_pc]

/-! ### What the latch can hold -/

/-- With PC at most 0x10FE (R25) every exception a cycle raises has a value in its range (R231 to R235). -/
theorem Raises.legal (hpc : s.pc.toNat ≤ 0x10FE) (h : Raises s e) : e.legal := by
  cases h with
  | atFetch => exact ⟨le_max_right _ _, max_le hpc (by decide)⟩
  | atDecode _ hd => exact hd
  | inHandler htrap =>
    obtain ⟨-, -, -, -, hvalue⟩ := trap_cases htrap
    exact hvalue

/-- A latch that is set keeps its exception, until a reset empties it (R243). -/
theorem step_latched {x : Exception} (hs : s.fault = some x) (h : step s = .next t) :
    t.fault = some x ∨ t.fault = none := by
  rw [step_eq] at h
  refine (deliver_latched ((nextEvent_fault s).trans hs) h).imp_right fun hreset => ?_
  rw [hreset] at h
  obtain rfl := Host.Outcome.next.inj h
  exact resetCore_fault _

/-- Settles O53: an empty latch is filled by a cycle with a legal exception; a full one keeps its own or is emptied. -/
theorem latchLegalKept : Obligations.LatchLegalKept := by
  intro s t hbound hlegal h e ht
  cases hs : s.fault with
  | none =>
    obtain ⟨rnd, -, hraises, -⟩ := step_raises hs h ht
    exact hraises.legal (by rw [cycleInput_pc]; exact hbound.1)
  | some x =>
    obtain hkept | hempty := step_latched hs h
    · exact hlegal e (hs.trans (hkept.symm.trans ht))
    · simp [hempty] at ht

end Sys2Proof.Machine
end

section
/-! PROOF. Reset and the end of a run (R260 to R275): what a reset restores (O22), that power-on leaves the same with
every key up (O23), and that a finished run stays finished (O59). -/

namespace Sys2Proof.Machine

variable {s t : State} {e : Event}

/-! ### A finished run -/

/-- `t` differs from `s` in the timers, the keys and the record of inputs and outputs at most (R275). -/
def OnlyTimersAndKeys (s t : State) : Prop :=
  t = { s with dt := t.dt, st := t.st, keys := t.keys, io := t.io }

/-- Neither a fetch nor what ends a run looks at the timers, the keys or the record. -/
theorem OnlyTimersAndKeys.finished (h : OnlyTimersAndKeys s t) (hs : finished s) : finished t := by
  rw [OnlyTimersAndKeys] at h
  rw [h]
  exact hs

/-- An address in memory is one a jump can name (R112). -/
theorem addrOperand_setWidth {w : Word} (hw : w.toNat < memSize) : addrOperand (w.setWidth 12) = w := by
  simp only [addrOperand, memSize] at *
  bv_omega

/-- At a PC in memory the word that ends a run is a jump to PC (R275, R112). -/
theorem decode_jumpToSelf {w : Word} (hw : w.toNat < memSize) :
    decode (0x1000#16 ||| w) = .ok (.jump (w.setWidth 12)) := by
  have hword : 0x1000#16 ||| addrOperand (w.setWidth 12) = packNNN 0x1 (w.setWidth 12) := wordNNN_eq 0x1 _
  rw [addrOperand_setWidth hw] at hword
  exact decode_of_eq_encode rfl hword

/-- The jump of a finished run leaves PC where it is, and nothing else is written (R112). -/
theorem cycle_of_finished (hs : finished s) : cycle s = .next s := by
  obtain ⟨hf, hh, hw⟩ := hs
  have hpc : s.pc.toNat < memSize := Nat.lt_of_succ_lt (fetch_inside hw)
  calc cycle s
    _ = exec (.jump (s.pc.setWidth 12)) s := cycle_exec hf hh hw (decode_jumpToSelf hpc)
    _ = .next (s.setPc (addrOperand (s.pc.setWidth 12))) := rfl
    _ = .next s := by rw [addrOperand_setWidth hpc]; rfl

theorem deliver_cycle_of_finished (hs : finished s) (rnd : Byte) : deliver (.cycle rnd) s = .next (s.present rnd) :=
  cycle_of_finished (s := s.present rnd) hs

/-- What an event other than reset and load can do to a finished run (R275). -/
theorem deliver_of_finished (hs : finished s) (hreset : e ≠ .reset) (hload : ∀ bytes, e ≠ .load bytes)
    (h : deliver e s = .next t) : OnlyTimersAndKeys s t := by
  have ⟨hf, hh, _⟩ := hs
  cases e with
  | cycle rnd =>
    obtain rfl := Host.Outcome.next.inj ((deliver_cycle_of_finished hs rnd).symm.trans h)
    rfl
  | tick =>
    obtain rfl := (tick_of_not_faulted hf).symm.trans (Host.Outcome.next.inj h)
    rfl
  | keyPress k =>
    obtain rfl := (keyPress_of_not_waiting hf hh).symm.trans (Host.Outcome.next.inj h)
    rfl
  | keyRelease k =>
    obtain rfl := (keyRelease_of_not_faulted hf).symm.trans (Host.Outcome.next.inj h)
    rfl
  | reset => exact absurd rfl hreset
  | load bytes => exact absurd rfl (hload bytes)

/-- Settles O59: the state that took the event is finished too, and the jump of a cycle leaves it as it is. -/
theorem finishedRunStays : Obligations.FinishedRunStays := by
  intro s t hs h hreset hload
  obtain ⟨io, hstate, hout, -⟩ := nextEvent_state s
  rw [step_eq, hstate] at h
  have htaken : finished (s.setIo io) := hs
  have hrest : OnlyTimersAndKeys s t := deliver_of_finished (s := s.setIo io) htaken hreset hload h
  refine ⟨hrest.finished hs, hrest, fun ⟨rnd, hevent⟩ => ?_⟩
  rw [hevent, deliver_cycle_of_finished htaken] at h
  obtain rfl := Host.Outcome.next.inj h
  exact ⟨rfl, hout⟩

/-! ### Reset and power-on -/

@[simp] theorem powerOn_getV (c : Config) (r : Nibble) : (State.powerOn c).getV r = 0 :=
  Vector.getElem_replicate r.isLt

@[simp] theorem powerOn_getStack (c : Config) (j : Nibble) : (State.powerOn c).getStack j = 0 :=
  Vector.getElem_replicate j.isLt

@[simp] theorem powerOn_isPressed (c : Config) (k : Nibble) : (State.powerOn c).isPressed k = false :=
  Vector.getElem_replicate k.isLt

/-- Memory lists no cell after power-on, so every byte is of the reset contents (R41). -/
theorem powerOn_byteAt (c : Config) (a : Nat) : (State.powerOn c).byteAt a = initialByte c a := rfl

/-- Nothing is lit after power-on (R41). -/
theorem powerOn_pixel (c : Config) (p : Pixel) : (State.powerOn c).pixel p = false := rfl

/-- A reset leaves the power-on state but for the keys and the record (R260, R261). -/
theorem resetCore_eq (s : State) :
    resetCore s = { State.powerOn s.cfg with keys := s.keys, io := { s.io with out := s.io.out ++ [.render] } } := rfl

/-- Settles O22: each piece but the keys and the record is that of the power-on state. -/
theorem resetRestoresEveryPiece : Obligations.ResetRestoresEveryPiece := by
  intro s rest he
  have hstep := (step_of_waiting he).trans (congrArg Host.Outcome.next (resetCore_eq _))
  refine ⟨_, hstep, powerOn_getV s.cfg, rfl, rfl, rfl, powerOn_getStack s.cfg, rfl, rfl, rfl, rfl, rfl,
    fun g r hg hr => ?_, fun a ha _ => ?_, powerOn_pixel s.cfg, rfl, rfl, rfl⟩
  · rw [← initialByte_font s.cfg hg hr]
    exact powerOn_byteAt s.cfg (g * 5 + r)
  · rw [← initialByte_above_font s.cfg ha]
    exact powerOn_byteAt s.cfg a

/-- Settles O23: reset and power-on share the power-on state, whose pieces are read off it. -/
theorem powerOnIsResetWithKeysUp : Obligations.PowerOnIsResetWithKeysUp := by
  refine ⟨fun s t hcfg h => ?_, powerOn_isPressed _, powerOn_getV _, rfl, rfl, rfl, rfl, rfl, rfl, rfl, by decide,
    fun a ha _ => (powerOn_byteAt _ a).trans (initialByte_above_font _ ha), powerOn_pixel _⟩
  obtain rfl := Host.Outcome.next.inj h
  rw [resetCore_eq, hcfg]
  rfl

end Sys2Proof.Machine
end
